-- ==== Sys2Proof/Word.lean ====
section
/-! DEFINITION. The widths of the machine: bytes, 16-bit words, instruction fields (00_scope.md R7, R9). -/

namespace Sys2Proof

/-- An 8-bit unsigned value: a general register, a timer, a memory cell (R7). -/
abbrev Byte := BitVec 8

/-- A 16-bit unsigned value: `I`, `PC`, a stack slot, an instruction word (R7, R70). -/
abbrev Word := BitVec 16

/-- A general-register index, the field `x` or `y` of an instruction: 4 bits, always in range (R21). -/
abbrev Reg := BitVec 4

/-- The field `nnn`: a 12-bit address (R9). -/
abbrev Addr12 := BitVec 12

/-- `MEM_SIZE` (R7). -/
abbrev memSize : Nat := 4096

/-- `PROG_BASE` (R7). -/
abbrev progBase : Nat := 0x200

/-- `PROG_MAX` (R7; the number 3584 holds, 90_conflicts.md C1). -/
abbrev progMax : Nat := 3584

/-- `STACK_DEPTH` (R7). -/
abbrev stackDepth : Nat := 16

/-- `DISP_W` (R7). -/
abbrev dispWidth : Nat := 64

/-- `DISP_H` (R7). -/
abbrev dispHeight : Nat := 32

/-- `NKEYS` (R7). -/
abbrev numKeys : Nat := 16

end Sys2Proof
end

