-- ==== Sys2Proof/Syntax.lean ====
section
/-! DEFINITION. The instructions: one constructor per row of spec/opcode_table.json (30_encoding.md R75), its operands
the fields the row names (R72). Don't-care bits are no operands (R76, log entry 39). -/

namespace Sys2Proof

/-- The 34 instructions, in the order of R75. -/
inductive Instr where
  /-- `CLS` (R150) -/
  | cls
  /-- `RET` (R100) -/
  | ret
  /-- `JP nnn` (R101) -/
  | jp (nnn : Addr12)
  /-- `CALL nnn` (R102) -/
  | call (nnn : Addr12)
  /-- `SE Vx,nn` (R103) -/
  | seImm (x : Reg) (nn : Byte)
  /-- `SNE Vx,nn` (R104) -/
  | sneImm (x : Reg) (nn : Byte)
  /-- `SE Vx,Vy` (R105) -/
  | seReg (x y : Reg)
  /-- `LD Vx,nn` (R120) -/
  | ldImm (x : Reg) (nn : Byte)
  /-- `ADD Vx,nn` (R121) -/
  | addImm (x : Reg) (nn : Byte)
  /-- `LD Vx,Vy` (R122) -/
  | ldReg (x y : Reg)
  /-- `OR Vx,Vy` (R123) -/
  | orReg (x y : Reg)
  /-- `AND Vx,Vy` (R124) -/
  | andReg (x y : Reg)
  /-- `XOR Vx,Vy` (R125) -/
  | xorReg (x y : Reg)
  /-- `ADD Vx,Vy` (R126) -/
  | addReg (x y : Reg)
  /-- `SUB Vx,Vy` (R127) -/
  | subReg (x y : Reg)
  /-- `SHR Vx` (R128) -/
  | shr (x : Reg)
  /-- `SUBN Vx,Vy` (R129) -/
  | subnReg (x y : Reg)
  /-- `SHL Vx` (R130) -/
  | shl (x : Reg)
  /-- `SNE Vx,Vy` (R106) -/
  | sneReg (x y : Reg)
  /-- `LD I,nnn` (R140) -/
  | ldI (nnn : Addr12)
  /-- `JP V0,nnn` (R107) -/
  | jpV0 (nnn : Addr12)
  /-- `RND Vx,nn` (R131) -/
  | rnd (x : Reg) (nn : Byte)
  /-- `DRW Vx,Vy,n` (R151) -/
  | drw (x y : Reg) (n : BitVec 4)
  /-- `SKP Vx` (R160) -/
  | skp (x : Reg)
  /-- `SKNP Vx` (R161) -/
  | sknp (x : Reg)
  /-- `LD Vx,DT` (R163) -/
  | ldVxDt (x : Reg)
  /-- `LD Vx,K` (R162) -/
  | ldVxK (x : Reg)
  /-- `LD DT,Vx` (R164) -/
  | ldDtVx (x : Reg)
  /-- `LD ST,Vx` (R165) -/
  | ldStVx (x : Reg)
  /-- `ADD I,Vx` (R141) -/
  | addI (x : Reg)
  /-- `LD F,Vx` (R142) -/
  | ldF (x : Reg)
  /-- `LD B,Vx` (R143) -/
  | ldB (x : Reg)
  /-- `LD [I],Vx` (R144) -/
  | dumpRegs (x : Reg)
  /-- `LD Vx,[I]` (R145) -/
  | loadRegs (x : Reg)
  deriving DecidableEq, Repr

end Sys2Proof
end

