-- ==== Sys2Proof/WellFormed.lean ====
section
/-! DEFINITION. Which words are instructions. An `Instr` has no ill-formed term: its operands are typed by exactly the
fields of the word (30_encoding.md R72; a register index is always in range, 10_state.md R21). What can be ill-formed
is a WORD: the checks here are written from the map of R75 and the don't-care table of R76, apart from the decoder,
so that the decoder can be held against them. -/

namespace Sys2Proof

/-- A row of the opcode map: `w` is the instruction if and only if `w & mask = bits` (R75); `dontCare` are the bits
R76 lists for it. -/
structure OpcodeRow where
  mnemonic : String
  mask : Word
  bits : Word
  dontCare : Word
  deriving DecidableEq, Repr

/-- Whether `w` is the row's instruction (R75). -/
def OpcodeRow.accepts (r : OpcodeRow) (w : Word) : Bool := w &&& r.mask == r.bits

/-- The opcode map of R75, families 0x0 to 0x7. -/
def opcodeMapLow : List OpcodeRow :=
  [⟨"CLS", 0xF0FF, 0x00E0, 0x0F00⟩,
   ⟨"RET", 0xF0FF, 0x00EE, 0x0F00⟩,
   ⟨"JP_nnn", 0xF000, 0x1000, 0⟩,
   ⟨"CALL_nnn", 0xF000, 0x2000, 0⟩,
   ⟨"SE_Vx_nn", 0xF000, 0x3000, 0⟩,
   ⟨"SNE_Vx_nn", 0xF000, 0x4000, 0⟩,
   ⟨"SE_Vx_Vy", 0xF000, 0x5000, 0x000F⟩,
   ⟨"LD_Vx_nn", 0xF000, 0x6000, 0⟩,
   ⟨"ADD_Vx_nn", 0xF000, 0x7000, 0⟩]

/-- The opcode map of R75, families 0x8 to 0xD. -/
def opcodeMapMiddle : List OpcodeRow :=
  [⟨"LD_Vx_Vy", 0xF00F, 0x8000, 0⟩,
   ⟨"OR_Vx_Vy", 0xF00F, 0x8001, 0⟩,
   ⟨"AND_Vx_Vy", 0xF00F, 0x8002, 0⟩,
   ⟨"XOR_Vx_Vy", 0xF00F, 0x8003, 0⟩,
   ⟨"ADD_Vx_Vy", 0xF00F, 0x8004, 0⟩,
   ⟨"SUB_Vx_Vy", 0xF00F, 0x8005, 0⟩,
   ⟨"SHR_Vx", 0xF00F, 0x8006, 0x00F0⟩,
   ⟨"SUBN_Vx_Vy", 0xF00F, 0x8007, 0⟩,
   ⟨"SHL_Vx", 0xF00F, 0x800E, 0x00F0⟩,
   ⟨"SNE_Vx_Vy", 0xF000, 0x9000, 0x000F⟩,
   ⟨"LD_I_nnn", 0xF000, 0xA000, 0⟩,
   ⟨"JP_V0_nnn", 0xF000, 0xB000, 0⟩,
   ⟨"RND_Vx_nn", 0xF000, 0xC000, 0⟩,
   ⟨"DRW_Vx_Vy_n", 0xF000, 0xD000, 0⟩]

/-- The opcode map of R75, families 0xE and 0xF. -/
def opcodeMapHigh : List OpcodeRow :=
  [⟨"SKP_Vx", 0xF0FF, 0xE09E, 0⟩,
   ⟨"SKNP_Vx", 0xF0FF, 0xE0A1, 0⟩,
   ⟨"LD_Vx_DT", 0xF0FF, 0xF007, 0⟩,
   ⟨"LD_Vx_K", 0xF0FF, 0xF00A, 0⟩,
   ⟨"LD_DT_Vx", 0xF0FF, 0xF015, 0⟩,
   ⟨"LD_ST_Vx", 0xF0FF, 0xF018, 0⟩,
   ⟨"ADD_I_Vx", 0xF0FF, 0xF01E, 0⟩,
   ⟨"LD_F_Vx", 0xF0FF, 0xF029, 0⟩,
   ⟨"LD_B_Vx", 0xF0FF, 0xF033, 0⟩,
   ⟨"LD__I__Vx", 0xF0FF, 0xF055, 0⟩,
   ⟨"LD_Vx__I", 0xF0FF, 0xF065, 0⟩]

/-- The opcode map of R75: 34 rows. -/
def opcodeMap : List OpcodeRow := opcodeMapLow ++ opcodeMapMiddle ++ opcodeMapHigh

/-- Check: the word matches a row of the map; every other word is unknown (R77). -/
def isInstructionWord (w : Word) : Bool := opcodeMap.any (·.accepts w)

/-- Check: the word is an instruction with every don't-care bit 0 (R76). -/
def isCanonicalWord (w : Word) : Bool := opcodeMap.any fun r => r.accepts w && w &&& r.dontCare == 0

/-- The instruction's row name in spec/opcode_table.json. -/
def Instr.mnemonic : Instr → String
  | .cls => "CLS"
  | .ret => "RET"
  | .jp _ => "JP_nnn"
  | .call _ => "CALL_nnn"
  | .seImm _ _ => "SE_Vx_nn"
  | .sneImm _ _ => "SNE_Vx_nn"
  | .seReg _ _ => "SE_Vx_Vy"
  | .ldImm _ _ => "LD_Vx_nn"
  | .addImm _ _ => "ADD_Vx_nn"
  | .ldReg _ _ => "LD_Vx_Vy"
  | .orReg _ _ => "OR_Vx_Vy"
  | .andReg _ _ => "AND_Vx_Vy"
  | .xorReg _ _ => "XOR_Vx_Vy"
  | .addReg _ _ => "ADD_Vx_Vy"
  | .subReg _ _ => "SUB_Vx_Vy"
  | .shr _ => "SHR_Vx"
  | .subnReg _ _ => "SUBN_Vx_Vy"
  | .shl _ => "SHL_Vx"
  | .sneReg _ _ => "SNE_Vx_Vy"
  | .ldI _ => "LD_I_nnn"
  | .jpV0 _ => "JP_V0_nnn"
  | .rnd _ _ => "RND_Vx_nn"
  | .drw _ _ _ => "DRW_Vx_Vy_n"
  | .skp _ => "SKP_Vx"
  | .sknp _ => "SKNP_Vx"
  | .ldVxDt _ => "LD_Vx_DT"
  | .ldVxK _ => "LD_Vx_K"
  | .ldDtVx _ => "LD_DT_Vx"
  | .ldStVx _ => "LD_ST_Vx"
  | .addI _ => "ADD_I_Vx"
  | .ldF _ => "LD_F_Vx"
  | .ldB _ => "LD_B_Vx"
  | .dumpRegs _ => "LD__I__Vx"
  | .loadRegs _ => "LD_Vx__I"

end Sys2Proof
end

