-- ==== Sys2Proof/Decode.lean ====
section
/-! DEFINITION. The two-level decoder of 30_encoding.md R73, total on any word and any bytes, and the encoder written
from the encodings of R75 (canonical: every don't-care bit 0, R76). -/

namespace Sys2Proof

/-- `family = w[15:12]` (R9). -/
def wordFamily (w : Word) : BitVec 4 := w.extractLsb' 12 4
/-- `x = w[11:8]` (R9). -/
def wordX (w : Word) : Reg := w.extractLsb' 8 4
/-- `y = w[7:4]` (R9). -/
def wordY (w : Word) : Reg := w.extractLsb' 4 4
/-- `n = w[3:0]` (R9). -/
def wordN (w : Word) : BitVec 4 := w.extractLsb' 0 4
/-- `nn = w[7:0]` (R9). -/
def wordNN (w : Word) : Byte := w.extractLsb' 0 8
/-- `nnn = w[11:0]` (R9). -/
def wordNNN (w : Word) : Addr12 := w.extractLsb' 0 12

/-- The word of two bytes, the one at the lower address first: big-endian (20_memory.md R51). -/
def wordOfBytes (hi lo : Byte) : Word := hi ++ lo
/-- The byte of a word stored at the lower address (R51). -/
def highByte (w : Word) : Byte := w.extractLsb' 8 8
/-- The byte of a word stored at the higher address (R51). -/
def lowByte (w : Word) : Byte := w.extractLsb' 0 8

/-- Family 0x0: the sub-opcode is the low byte; bits 11:8 are ignored (R73, R76; log entry 12). -/
def decodeFamily0 (w : Word) : Option Instr :=
  match wordNN w with
  | 0xE0#8 => some .cls
  | 0xEE#8 => some .ret
  | _ => none

/-- Family 0x8: the sub-opcode is the low nibble; the shifts ignore `y` (R73, R76; log entries 15, 32). -/
def decodeFamily8 (w : Word) : Option Instr :=
  match wordN w with
  | 0x0#4 => some (.ldReg (wordX w) (wordY w))
  | 0x1#4 => some (.orReg (wordX w) (wordY w))
  | 0x2#4 => some (.andReg (wordX w) (wordY w))
  | 0x3#4 => some (.xorReg (wordX w) (wordY w))
  | 0x4#4 => some (.addReg (wordX w) (wordY w))
  | 0x5#4 => some (.subReg (wordX w) (wordY w))
  | 0x6#4 => some (.shr (wordX w))
  | 0x7#4 => some (.subnReg (wordX w) (wordY w))
  | 0xE#4 => some (.shl (wordX w))
  | _ => none

/-- Family 0xE: the sub-opcode is the low byte (R73). -/
def decodeFamilyE (w : Word) : Option Instr :=
  match wordNN w with
  | 0x9E#8 => some (.skp (wordX w))
  | 0xA1#8 => some (.sknp (wordX w))
  | _ => none

/-- Family 0xF: the sub-opcode is the low byte (R73). -/
def decodeFamilyF (w : Word) : Option Instr :=
  match wordNN w with
  | 0x07#8 => some (.ldVxDt (wordX w))
  | 0x0A#8 => some (.ldVxK (wordX w))
  | 0x15#8 => some (.ldDtVx (wordX w))
  | 0x18#8 => some (.ldStVx (wordX w))
  | 0x1E#8 => some (.addI (wordX w))
  | 0x29#8 => some (.ldF (wordX w))
  | 0x33#8 => some (.ldB (wordX w))
  | 0x55#8 => some (.dumpRegs (wordX w))
  | 0x65#8 => some (.loadRegs (wordX w))
  | _ => none

/-- Decode an instruction word (R73, R92); `none` is an unknown opcode (R77). -/
def decodeWord (w : Word) : Option Instr :=
  match wordFamily w with
  | 0x0#4 => decodeFamily0 w
  | 0x1#4 => some (.jp (wordNNN w))
  | 0x2#4 => some (.call (wordNNN w))
  | 0x3#4 => some (.seImm (wordX w) (wordNN w))
  | 0x4#4 => some (.sneImm (wordX w) (wordNN w))
  | 0x5#4 => some (.seReg (wordX w) (wordY w))
  | 0x6#4 => some (.ldImm (wordX w) (wordNN w))
  | 0x7#4 => some (.addImm (wordX w) (wordNN w))
  | 0x8#4 => decodeFamily8 w
  | 0x9#4 => some (.sneReg (wordX w) (wordY w))
  | 0xA#4 => some (.ldI (wordNNN w))
  | 0xB#4 => some (.jpV0 (wordNNN w))
  | 0xC#4 => some (.rnd (wordX w) (wordNN w))
  | 0xD#4 => some (.drw (wordX w) (wordY w) (wordN w))
  | 0xE#4 => decodeFamilyE w
  | 0xF#4 => decodeFamilyF w
  | _ => none

/-- Why bytes do not begin with an instruction. -/
inductive DecodeError where
  /-- fewer than two bytes (an instruction is always two, R70) -/
  | truncated
  /-- the two bytes are the word `w`, which matches no row of the map (R77) -/
  | unknownOpcode (w : Word)
  deriving DecidableEq, Repr

/-- Decode the instruction at the head of any bytes, with the bytes after it. -/
def decodeBytes : List Byte → Except DecodeError (Instr × List Byte)
  | hi :: lo :: rest =>
    match decodeWord (wordOfBytes hi lo) with
    | some i => .ok (i, rest)
    | none => .error (.unknownOpcode (wordOfBytes hi lo))
  | _ => .error .truncated

/-- The canonical word of an instruction (R75, R76). -/
def encode : Instr → Word
  | .cls => 0x00E0#16
  | .ret => 0x00EE#16
  | .jp nnn => 0x1#4 ++ nnn
  | .call nnn => 0x2#4 ++ nnn
  | .seImm x nn => 0x3#4 ++ x ++ nn
  | .sneImm x nn => 0x4#4 ++ x ++ nn
  | .seReg x y => 0x5#4 ++ x ++ y ++ 0x0#4
  | .ldImm x nn => 0x6#4 ++ x ++ nn
  | .addImm x nn => 0x7#4 ++ x ++ nn
  | .ldReg x y => 0x8#4 ++ x ++ y ++ 0x0#4
  | .orReg x y => 0x8#4 ++ x ++ y ++ 0x1#4
  | .andReg x y => 0x8#4 ++ x ++ y ++ 0x2#4
  | .xorReg x y => 0x8#4 ++ x ++ y ++ 0x3#4
  | .addReg x y => 0x8#4 ++ x ++ y ++ 0x4#4
  | .subReg x y => 0x8#4 ++ x ++ y ++ 0x5#4
  | .shr x => 0x8#4 ++ x ++ 0x06#8
  | .subnReg x y => 0x8#4 ++ x ++ y ++ 0x7#4
  | .shl x => 0x8#4 ++ x ++ 0x0E#8
  | .sneReg x y => 0x9#4 ++ x ++ y ++ 0x0#4
  | .ldI nnn => 0xA#4 ++ nnn
  | .jpV0 nnn => 0xB#4 ++ nnn
  | .rnd x nn => 0xC#4 ++ x ++ nn
  | .drw x y n => 0xD#4 ++ x ++ y ++ n
  | .skp x => 0xE#4 ++ x ++ 0x9E#8
  | .sknp x => 0xE#4 ++ x ++ 0xA1#8
  | .ldVxDt x => 0xF#4 ++ x ++ 0x07#8
  | .ldVxK x => 0xF#4 ++ x ++ 0x0A#8
  | .ldDtVx x => 0xF#4 ++ x ++ 0x15#8
  | .ldStVx x => 0xF#4 ++ x ++ 0x18#8
  | .addI x => 0xF#4 ++ x ++ 0x1E#8
  | .ldF x => 0xF#4 ++ x ++ 0x29#8
  | .ldB x => 0xF#4 ++ x ++ 0x33#8
  | .dumpRegs x => 0xF#4 ++ x ++ 0x55#8
  | .loadRegs x => 0xF#4 ++ x ++ 0x65#8

/-- The two bytes of an instruction as they lie in memory, lower address first (R51). -/
def encodeBytes (i : Instr) : List Byte := [highByte (encode i), lowByte (encode i)]

/-- The bits of a table row's instruction, numbered as spec/opcode_table.json numbers them: bits above `nbits` are 0
and an instruction is 16 bits (log entry 37). -/
def tableWord (nbits w : Nat) : Word := BitVec.ofNat 16 (w % 2 ^ nbits)

/-- The instruction this decoder reads from the bytes of a table row's word, laid out as the hardware stores them. -/
def decodeTableWord (nbits w : Nat) : Option Instr :=
  match decodeBytes [highByte (tableWord nbits w), lowByte (tableWord nbits w)] with
  | .ok (i, _) => some i
  | .error _ => none

end Sys2Proof
end

