-- ==== Sys2Proof/Config.lean ====
section
/-! DEFINITION. What the spec leaves open (00_scope.md R8): the parameters, as plain data with the spec's defaults,
and the one free value, the random byte of `RND`. -/

namespace Sys2Proof.Config

/-- The default of `FONT`: 16 glyphs of 5 bytes (10_state.md R33). PRESUMED: the spec takes the bytes from general
knowledge (log entry 6; unsafe where a claim reads font bytes). -/
def fontTable : List Byte :=
  [0xF0, 0x90, 0x90, 0x90, 0xF0, 0x20, 0x60, 0x20, 0x20, 0x70] ++
  [0xF0, 0x10, 0xF0, 0x80, 0xF0, 0xF0, 0x10, 0xF0, 0x10, 0xF0] ++
  [0x90, 0x90, 0xF0, 0x10, 0x10, 0xF0, 0x80, 0xF0, 0x10, 0xF0] ++
  [0xF0, 0x80, 0xF0, 0x90, 0xF0, 0xF0, 0x10, 0x20, 0x40, 0x40] ++
  [0xF0, 0x90, 0xF0, 0x90, 0xF0, 0xF0, 0x90, 0xF0, 0x10, 0xF0] ++
  [0xF0, 0x90, 0xF0, 0x90, 0x90, 0xE0, 0x90, 0xE0, 0x90, 0xE0] ++
  [0xF0, 0x80, 0x80, 0x80, 0xF0, 0xE0, 0x90, 0x90, 0x90, 0xE0] ++
  [0xF0, 0x80, 0xF0, 0x80, 0xF0, 0xF0, 0x80, 0xF0, 0x80, 0x80]

/-- What a memory address that `State.mem` does not list reads as: the reset contents under the default font, the
font below 0x050 and 0 above (10_state.md R36). -/
def resetByte (a : Nat) : Byte := fontTable.getD a 0

/-- The random byte of the `k`-th `RND` executed: a FREE VALUE, no value of it can be proved (42_alu.md R131,
92_eei_decisions.md D26; log entry 7). -/
opaque randomByte : Nat → Byte

end Sys2Proof.Config

namespace Sys2Proof

/-- The open parameters of R8, as data. -/
structure Params where
  /-- `FONT`: the 80 bytes `Reset` loads at address 0 (R33). -/
  font : Vector Byte 80
  /-- `UNK_PC_ADVANCE`: true is 2, false is 0 (60_exceptions.md R174). -/
  unkPcAdvances : Bool
  /-- `SKP_CLEARS_LATCH` (45_keys_timers.md R160). -/
  skpClearsLatch : Bool
  /-- `WAITKEY_CLEARS_LATCH` (45_keys_timers.md R162). -/
  waitKeyClearsLatch : Bool
  /-- `KEY_PICK`: for the sets of latches listed, the latch picked; every other set picks its least member. Any
  function from a non-empty set to one of its members is such a list (log entry 5). -/
  keyPick : List (BitVec 16 × BitVec 4)
  deriving DecidableEq, Repr

/-- The defaults of R8 (DESIGN CHOICE of the spec, log entries 1 to 6). -/
def Params.default : Params where
  font := ⟨Config.fontTable.toArray, by decide⟩
  unkPcAdvances := false
  skpClearsLatch := false
  waitKeyClearsLatch := false
  keyPick := []

end Sys2Proof
end

