-- ==== Sys2Proof/Machine/State.lean ====
section
/-! DEFINITION. The state of the machine (10_state.md R20: "The whole state of the hardware is the following and nothing
else"), the reasons a step stops, and the state after reset (R36). -/

namespace Sys2Proof.Machine

/-- Memory: the addresses whose byte differs from the reset contents, in rising order (20_memory.md R50). An address
not listed reads as `Config.resetByte`. -/
abbrev Memory := List Host.Cell

/-- The display buffer: 32 rows of 64 cells; the cell of pixel (x, y), index `y*64 + x`, is bit `x` of row `y`
(10_state.md R29; log entry 34). -/
abbrev Display := Vector (BitVec 64) 32

/-- Everything the machine holds. The last two fields are the MODEL'S OWN (log entries 1 and 7). -/
structure State where
  /-- the general registers `V[0]` .. `V[15]` (R21, R22) -/
  v : Vector Byte 16
  /-- the index register `I` (R24) -/
  i : Word
  /-- the program counter `PC` (R25) -/
  pc : Word
  /-- the return stack (R27) -/
  stack : Vector Word 16
  /-- the stack pointer `SP`: the number of occupied slots, 0..16 (R27, R37 (b); log entry 10) -/
  sp : Fin 17
  /-- the delay timer `DT` (R28) -/
  dt : Byte
  /-- the sound timer `ST` (R28) -/
  st : Byte
  /-- the display buffer (R29) -/
  disp : Display
  /-- the frame-dirty flag `DIRTY` (R30) -/
  dirty : Bool
  /-- the input latches: bit `k` is `key[k]` (R31; log entry 34) -/
  keys : BitVec 16
  /-- memory (R32) -/
  mem : Memory
  /-- the open parameters of 00_scope.md R8, which nothing changes (log entry 1) -/
  params : Params
  /-- how many random bytes `RND` has taken (42_alu.md R131; log entry 7) -/
  draws : Nat
  deriving DecidableEq, Repr

/-- The run-time faults (60_exceptions.md R170, R171). Each is the spec's own report of a step, after which the driver
may go on (`stepReport`, `State.afterFault`); ending `step` here is safe (log entry 8). -/
inductive Fault where
  /-- decode raises it: the word matches no row of the opcode map (R174); safe -/
  | unknownOpcode (w : Word)
  /-- `CALL nnn` raises it with all 16 slots occupied (R102); safe -/
  | stackOverflow
  /-- `RET` raises it with no slot occupied (R100); safe -/
  | stackUnderflow
  /-- the fetch, `DRW`, `LD B,Vx`, `LD [I],Vx` and `LD Vx,[I]` raise it, with the lowest address of the access that is
  above 4095 (R52, R171); safe -/
  | memoryOutOfBounds (addr : Nat)
  deriving DecidableEq, Repr

/-- Reasons for refusing an instruction. No meaning of this model refuses. -/
inductive Refusal where
  /-- `exec` raises it in the arm of an instruction that has no meaning yet (none in this model); safe -/
  | notModelled (mnemonic : String)
  deriving DecidableEq, Repr

/-- What executing an instruction answers. -/
abbrev Result := Host.Outcome State Fault Refusal

/-- The state after `Reset` with the default parameters (10_state.md R36, 70_reset_and_hazards.md R200). `I`, `SP` and
`DIRTY` are 0 by the spec's reading (log entry 25); `params` and `draws` are the model's own (log entries 1, 7). -/
def State.reset : State where
  v := Vector.replicate 16 0
  i := 0
  pc := 0x200
  stack := Vector.replicate 16 0
  sp := 0
  dt := 0
  st := 0
  disp := Vector.replicate 32 0
  dirty := false
  keys := 0
  mem := []
  params := Params.default
  draws := 0

end Sys2Proof.Machine
end

