-- ==== Sys2Proof/Machine/Ops.lean ====
section
/-! DEFINITION. The named operations every meaning is written over: registers, memory with its bounds check, the fetch,
faults, the return stack, the key latches. -/

namespace Sys2Proof.Machine

/-! ### Registers (00_scope.md R10) -/

/-- `V[x]` (R21): no register is hard-wired. -/
def State.getV (s : State) (x : Reg) : Byte := s.v[x.toNat]'x.isLt
/-- `V[x] <- b` (R21). -/
def State.setV (s : State) (x : Reg) (b : Byte) : State := { s with v := s.v.set x.toNat b x.isLt }
/-- All sixteen registers at once. -/
def State.setRegs (s : State) (v : Vector Byte 16) : State := { s with v := v }
/-- `I <- a` (R24). -/
def State.setI (s : State) (a : Word) : State := { s with i := a }
/-- `PC <- a` (R25). -/
def State.setPc (s : State) (a : Word) : State := { s with pc := a }
/-- The stack slots (R27). -/
def State.setStack (s : State) (k : Vector Word 16) : State := { s with stack := k }
/-- `SP <- n` (R27). -/
def State.setSp (s : State) (n : Fin 17) : State := { s with sp := n }
/-- `DT <- b` (R28). -/
def State.setDt (s : State) (b : Byte) : State := { s with dt := b }
/-- `ST <- b` (R28). -/
def State.setSt (s : State) (b : Byte) : State := { s with st := b }
/-- The display buffer (R29). -/
def State.setDisp (s : State) (d : Display) : State := { s with disp := d }
/-- `DIRTY <- b` (R30). -/
def State.setDirty (s : State) (b : Bool) : State := { s with dirty := b }
/-- The key latches (R31). -/
def State.setKeys (s : State) (k : BitVec 16) : State := { s with keys := k }
/-- Memory (R32). -/
def State.setMem (s : State) (m : Memory) : State := { s with mem := m }
/-- The model's count of random bytes taken (log entry 7). -/
def State.setDraws (s : State) (n : Nat) : State := { s with draws := n }

/-- `VF`, register 0xF (R22). -/
def flagReg : Reg := 0xF#4

/-- `PC <- next`, that is `(PC + 2) mod 65536` (R10, R25). -/
def State.advance (s : State) : State := s.setPc (s.pc + 2)

/-- `PC <- skip` if the condition holds, else `PC <- next` (R10, R103). -/
def State.skipIf (s : State) (c : Bool) : State := s.setPc (if c then s.pc + 4 else s.pc + 2)

/-! ### Memory (20_memory.md) -/

/-- The byte at an address, no check: `mem[a]` (R10). -/
def Memory.read : Memory → Nat → Byte
  | [], a => Config.resetByte a
  | (b, u) :: m, a => if b = a then u else Memory.read m a

/-- Drop what is listed for an address: it reads as the reset contents again. -/
def Memory.erase (m : Memory) (a : Nat) : Memory := m.filter fun c => !(c.1 == a)

/-- List a cell in front of the first higher address. -/
def Memory.insert : Memory → Nat → Byte → Memory
  | [], a, u => [(a, u)]
  | (b, w) :: m, a, u => if a < b then (a, u) :: (b, w) :: m else (b, w) :: Memory.insert m a u

/-- `mem[a] <- u`, no check (R54): exactly one cell changes. Writing the reset contents lists nothing. -/
def Memory.write (m : Memory) (a : Nat) (u : Byte) : Memory :=
  if u = Config.resetByte a then m.erase a else Memory.insert (m.erase a) a u

/-- The `n` bytes from address `a` up. -/
def Memory.readBytes (m : Memory) (a n : Nat) : List Byte := (List.range n).map fun k => m.read (a + k)

/-- Write bytes from address `a` up. -/
def Memory.writeBytes : Memory → Nat → List Byte → Memory
  | m, _, [] => m
  | m, a, u :: us => Memory.writeBytes (m.write a u) (a + 1) us

/-- The canonical form: addresses strictly rising and below 4096, no cell equal to the reset contents (R37 (e)). -/
def Memory.wf : Memory → Bool
  | [] => true
  | (a, u) :: m => decide (a < memSize) && !(u == Config.resetByte a) && m.all (fun c => decide (a < c.1)) && Memory.wf m

/-- Whether an access to the `n` addresses from `a` up is admitted: `a + n - 1 ≤ 4095` in unbounded naturals (R52);
an access to no address always is (R151 (b)). -/
def admitted (a n : Nat) : Bool := n == 0 || decide (a + n ≤ memSize)

/-- `MemoryOutOfBounds(max(a, 4096))` for an access that starts at `a` (R52; log entry 9). -/
def boundsFault (a : Nat) : Fault := .memoryOutOfBounds (max a memSize)

/-- `MemRead` of `n` bytes, the whole access checked first (R52, R53). -/
def Memory.load (m : Memory) (a n : Nat) : Except Fault (List Byte) :=
  if admitted a n then .ok (m.readBytes a n) else .error (boundsFault a)

/-- `MemWrite` of bytes from `a` up, the whole access checked before the first write (R52, R54). -/
def Memory.store (m : Memory) (a : Nat) (us : List Byte) : Except Fault Memory :=
  if admitted a us.length then .ok (m.writeBytes a us) else .error (boundsFault a)

/-- `MemRead(a, 2)`, big-endian, at any alignment: the fetch (R51, R53, R55, R91). -/
def Memory.loadWord (m : Memory) (a : Nat) : Except Fault Word :=
  if admitted a 2 then .ok (wordOfBytes (m.read a) (m.read (a + 1))) else .error (boundsFault a)

/-! ### Faults (60_exceptions.md) -/

/-- `raise F` (R10): the step ends with the report `f`. There is no trap entry: nothing is saved and control is not
moved (R177), and no return from one (R178). -/
def raise (f : Fault) : Result := .fault f

/-- The state a step that reports `f` leaves: the state it started from (R172; log entry 11), but that `UnknownOpcode`
moves `PC` by `UNK_PC_ADVANCE` (R174; log entry 2). -/
def State.afterFault (s : State) : Fault → State
  | .unknownOpcode _ => if s.params.unkPcAdvances then s.setPc (s.pc + 2) else s
  | .stackOverflow => s
  | .stackUnderflow => s
  | .memoryOutOfBounds _ => s

/-- The spec's numeric labels (R170; log entry 27); 0 is no fault. -/
def Fault.code : Fault → Nat
  | .unknownOpcode _ => 1
  | .stackOverflow => 2
  | .stackUnderflow => 3
  | .memoryOutOfBounds _ => 4

/-- Go on with the value of a checked operation, or raise its fault. -/
def orRaise {α : Type} (e : Except Fault α) (k : α → Result) : Result :=
  match e with
  | .ok a => k a
  | .error f => raise f

/-- Fetch and decode (R91, R92): the instruction at `PC`, or the first fault met, the fetch's before the decoder's
(R175). -/
def State.fetch (s : State) : Except Fault Instr :=
  match s.mem.loadWord s.pc.toNat with
  | .error f => .error f
  | .ok w =>
    match decodeWord w with
    | some i => .ok i
    | none => .error (.unknownOpcode w)

/-! ### The return stack (10_state.md R27) -/

/-- `stack[k]` (R10); a number that names no slot reads as 0. -/
def State.slot (s : State) (k : Nat) : Word := s.stack[k]?.getD 0

/-- Push: the slot `stack[SP]` is filled, then `SP` counts it; with all 16 occupied, `StackOverflow` (R102). -/
def State.push (s : State) (a : Word) : Except Fault State :=
  if h : s.sp.val < stackDepth then
    .ok ((s.setStack (s.stack.set s.sp.val a h)).setSp ⟨s.sp.val + 1, Nat.succ_lt_succ h⟩)
  else .error .stackOverflow

/-- Pop: the word in `stack[SP - 1]` and the state with `SP` one less, the slot's contents left in place (R100, log
entry 24); with none occupied, `StackUnderflow`. -/
def State.pop (s : State) : Except Fault (Word × State) :=
  if h : s.sp.val = 0 then .error .stackUnderflow
  else .ok (s.stack[s.sp.val - 1]'(by have := s.sp.isLt; omega),
    s.setSp ⟨s.sp.val - 1, by have := s.sp.isLt; omega⟩)

/-! ### Key latches (10_state.md R31) -/

/-- `key[k]` (R31). -/
def State.key (s : State) (k : Nat) : Bool := s.keys.getLsbD k

/-- `key[k] <- b` (R31). -/
def putKey (keys : BitVec 16) (k : Nat) (b : Bool) : BitVec 16 :=
  if b then keys ||| BitVec.twoPow 16 k else keys &&& ~~~ BitVec.twoPow 16 k

/-- The least latch that is set; 0 where none is. -/
def leastKey (keys : BitVec 16) : BitVec 4 :=
  BitVec.ofNat 4 (((List.range 16).find? fun k => keys.getLsbD k).getD 0)

/-- `KEY_PICK` (00_scope.md R8): the member of a set of latches that the parameters name, where they name one, else
the least (log entry 5). -/
def pickKey (p : Params) (keys : BitVec 16) : BitVec 4 :=
  match p.keyPick.lookup keys with
  | some k => if keys.getLsbD k.toNat then k else leastKey keys
  | none => leastKey keys

/-! ### Register dump and load (43_index_memory.md) -/

/-- `V[0]` .. `V[x]`, in order. -/
def State.regsUpTo (s : State) (x : Reg) : List Byte := s.v.toList.take (x.toNat + 1)

/-- The registers with bytes loaded from register `k` up. -/
def loadFrom : Vector Byte 16 → Nat → List Byte → Vector Byte 16
  | v, _, [] => v
  | v, k, u :: us => loadFrom (v.setIfInBounds k u) (k + 1) us

end Sys2Proof.Machine
end

