-- ==== Sys2Proof/Machine/Flags.lean ====
section
/-! DEFINITION. Every flag computation (10_state.md R23, 42_alu.md R118) and the order of the flag's write (R119). The
flag is `VF`; its value is 0 or 1. -/

namespace Sys2Proof.Machine

/-- A condition as a flag value. -/
def flagOf (c : Bool) : Byte := if c then 1 else 0

/-- Carry of `a + b`: 1 exactly when the sum exceeds 255 (R118, R126). -/
def carryFlag (a b : Byte) : Byte := flagOf (decide (a.toNat + b.toNat > 255))

/-- Not-borrow of `a - b`: 0 exactly when `b > a` (R118, R127). -/
def notBorrowFlag (a b : Byte) : Byte := flagOf (!decide (b.toNat > a.toNat))

/-- The bit a right shift puts out: bit 0 (R128). -/
def shiftRightFlag (a : Byte) : Byte := flagOf (a.getLsbD 0)

/-- The bit a left shift puts out: bit 7 (R130). -/
def shiftLeftFlag (a : Byte) : Byte := flagOf (a.getLsbD 7)

/-- Write the result to `V[x]`, THEN the flag to `VF`: with `x = 0xF` the flag stands (R119; log entry 16). -/
def State.setResultAndFlag (s : State) (x : Reg) (result flag : Byte) : State :=
  (s.setV x result).setV flagReg flag

end Sys2Proof.Machine
end

