-- ==== Sys2Proof/Machine/Alu.lean ====
section
/-! DEFINITION. The meanings of the register and ALU instructions (42_alu.md). Sources are read from the state at the
start of the step (R119); none can fault. -/

namespace Sys2Proof.Machine

/-- `LD Vx,nn` (R120). -/
def execLdImm (x : Reg) (nn : Byte) (s : State) : Result := .next (s.setV x nn).advance

/-- `ADD Vx,nn` (R121): wrapping, `VF` not written. -/
def execAddImm (x : Reg) (nn : Byte) (s : State) : Result := .next (s.setV x (s.getV x + nn)).advance

/-- `LD Vx,Vy` (R122). -/
def execLdReg (x y : Reg) (s : State) : Result := .next (s.setV x (s.getV y)).advance

/-- `OR Vx,Vy` (R123): `VF` not written (log entry 14). -/
def execOrReg (x y : Reg) (s : State) : Result := .next (s.setV x (s.getV x ||| s.getV y)).advance

/-- `AND Vx,Vy` (R124): `VF` not written (log entry 14). -/
def execAndReg (x y : Reg) (s : State) : Result := .next (s.setV x (s.getV x &&& s.getV y)).advance

/-- `XOR Vx,Vy` (R125): `VF` not written (log entry 14). -/
def execXorReg (x y : Reg) (s : State) : Result := .next (s.setV x (s.getV x ^^^ s.getV y)).advance

/-- `ADD Vx,Vy` (R126). -/
def execAddReg (x y : Reg) (s : State) : Result :=
  .next (s.setResultAndFlag x (s.getV x + s.getV y) (carryFlag (s.getV x) (s.getV y))).advance

/-- `SUB Vx,Vy` (R127). -/
def execSubReg (x y : Reg) (s : State) : Result :=
  .next (s.setResultAndFlag x (s.getV x - s.getV y) (notBorrowFlag (s.getV x) (s.getV y))).advance

/-- `SHR Vx` (R128): `V[x]` in place (log entry 15). -/
def execShr (x : Reg) (s : State) : Result :=
  .next (s.setResultAndFlag x (s.getV x >>> 1) (shiftRightFlag (s.getV x))).advance

/-- `SUBN Vx,Vy` (R129): `V[y] - V[x]` (log entry 38). -/
def execSubnReg (x y : Reg) (s : State) : Result :=
  .next (s.setResultAndFlag x (s.getV y - s.getV x) (notBorrowFlag (s.getV y) (s.getV x))).advance

/-- `SHL Vx` (R130): `V[x]` in place (log entry 15). -/
def execShl (x : Reg) (s : State) : Result :=
  .next (s.setResultAndFlag x (s.getV x <<< 1) (shiftLeftFlag (s.getV x))).advance

/-- `RND Vx,nn` with the random byte given (R131). -/
def State.rndWith (s : State) (rnd : Byte) (x : Reg) (nn : Byte) : State := (s.setV x (rnd &&& nn)).advance

/-- `RND Vx,nn` (R131): the random byte is a free value, and one is taken (log entry 7). -/
def execRnd (x : Reg) (nn : Byte) (s : State) : Result :=
  .next ((s.rndWith (Config.randomByte s.draws) x nn).setDraws (s.draws + 1))

end Sys2Proof.Machine
end

