-- ==== Sys2Proof/Machine/Operands.lean ====
section
/-! DEFINITION. Every operand form (30_encoding.md R72): registers are read by `State.getV`; here are the immediates,
the effective addresses and the values computed from a register. All are unsigned. -/

namespace Sys2Proof.Machine

/-- `nnn`, zero-extended to the 16 bits of `PC` or `I` (R72). -/
def zext12 (nnn : Addr12) : Word := nnn.setWidth 16

/-- A register's value, zero-extended to 16 bits (R9: nothing is sign-extended). -/
def zext8 (b : Byte) : Word := b.setWidth 16

/-- The target of `JP V0,nnn`: the plain sum, at most 0x10FE, not masked to 12 bits (41_control_flow.md R107). -/
def offsetTarget (nnn : Addr12) (v0 : Byte) : Word := zext12 nnn + zext8 v0

/-- The effective address `I + k` in unbounded naturals (43_index_memory.md). -/
def effAddr (i : Word) (k : Nat) : Nat := i.toNat + k

/-- The latch index a register's value selects: its low nibble (45_keys_timers.md R160; log entry 20). -/
def keyIndex (b : Byte) : Nat := (b &&& 0x0F#8).toNat

/-- The address of the font glyph for the low nibble of a value (43_index_memory.md R142). -/
def glyphAddr (b : Byte) : Word := zext8 (b &&& 0x0F#8) * 5

/-- The hundreds, tens and units digits of a value, one digit a byte (43_index_memory.md R143). -/
def bcdDigits (b : Byte) : List Byte :=
  [BitVec.ofNat 8 (b.toNat / 100), BitVec.ofNat 8 (b.toNat / 10 % 10), BitVec.ofNat 8 (b.toNat % 10)]

end Sys2Proof.Machine
end

