-- ==== Sys2Proof/Machine/ControlFlow.lean ====
section
/-! DEFINITION. The meanings of the control-flow instructions (41_control_flow.md). -/

namespace Sys2Proof.Machine

/-- `RET` (R100): the popped address plus 2, modulo 65536. -/
def execRet (s : State) : Result :=
  orRaise s.pop fun popped => .next (popped.2.setPc (popped.1 + 2))

/-- `JP nnn` (R101). -/
def execJp (nnn : Addr12) (s : State) : Result := .next (s.setPc (zext12 nnn))

/-- `CALL nnn` (R102): the address of the call itself is pushed. -/
def execCall (nnn : Addr12) (s : State) : Result :=
  orRaise (s.push s.pc) fun t => .next (t.setPc (zext12 nnn))

/-- `SE Vx,nn` (R103). -/
def execSeImm (x : Reg) (nn : Byte) (s : State) : Result := .next (s.skipIf (s.getV x == nn))

/-- `SNE Vx,nn` (R104). -/
def execSneImm (x : Reg) (nn : Byte) (s : State) : Result := .next (s.skipIf (s.getV x != nn))

/-- `SE Vx,Vy` (R105). -/
def execSeReg (x y : Reg) (s : State) : Result := .next (s.skipIf (s.getV x == s.getV y))

/-- `SNE Vx,Vy` (R106). -/
def execSneReg (x y : Reg) (s : State) : Result := .next (s.skipIf (s.getV x != s.getV y))

/-- `JP V0,nnn` (R107): always register 0. -/
def execJpV0 (nnn : Addr12) (s : State) : Result := .next (s.setPc (offsetTarget nnn (s.getV 0#4)))

end Sys2Proof.Machine
end

