-- ==== Sys2Proof/Machine/Display.lean ====
section
/-! DEFINITION. The display buffer's cells, the sprite compositor and the meanings of the display instructions
(44_display.md). -/

namespace Sys2Proof.Machine

/-- Row `y` of the display; a number that names no row reads as 0. -/
def Display.row (d : Display) (y : Nat) : BitVec 64 := d[y]?.getD 0

/-- `disp[k]`, `k = y*64 + x` (10_state.md R29). -/
def Display.cell (d : Display) (k : Nat) : Bool := (d.row (k / dispWidth)).getLsbD (k % dispWidth)

/-- One cell of a row set or cleared. -/
def putCell (row : BitVec 64) (col : Nat) (b : Bool) : BitVec 64 :=
  if b then row ||| BitVec.twoPow 64 col else row &&& ~~~ BitVec.twoPow 64 col

/-- `disp[k] <- b`. -/
def Display.setCell (d : Display) (k : Nat) (b : Bool) : Display :=
  d.setIfInBounds (k / dispWidth) (putCell (d.row (k / dispWidth)) (k % dispWidth) b)

/-- Every cell 0 (R150). -/
def blankDisplay : Display := Vector.replicate 32 0

/-- The body of R151's inner loop: the bit of row `r` and column `c` of a sprite at (`x0`, `y0`) onto the display, and
the collision so far. A pixel off the grid is skipped, nothing wraps (log entry 18). -/
def drawPixel (x0 y0 r c : Nat) (bit : Bool) (acc : Display × Bool) : Display × Bool :=
  if x0 + c ≤ 63 ∧ y0 + r ≤ 31 then
    (acc.1.setCell ((y0 + r) * dispWidth + (x0 + c)) (acc.1.cell ((y0 + r) * dispWidth + (x0 + c)) ^^ bit),
      acc.2 || (bit && acc.1.cell ((y0 + r) * dispWidth + (x0 + c))))
  else acc

/-- The bit of a sprite byte for column `c`: column 0 is bit 7 (R151). -/
def spriteBit (b : Byte) (c : Nat) : Bool := b.getLsbD (7 - c)

/-- R151's loop over the columns of sprite row `r`. -/
def drawRow (x0 y0 r : Nat) (b : Byte) (acc : Display × Bool) : Display × Bool :=
  (List.range 8).foldl (fun acc c => drawPixel x0 y0 r c (spriteBit b c) acc) acc

/-- R151's loop over the rows of a sprite, from row `r` on. -/
def drawRows (x0 y0 : Nat) : Nat → List Byte → Display × Bool → Display × Bool
  | _, [], acc => acc
  | r, b :: bs, acc => drawRows x0 y0 (r + 1) bs (drawRow x0 y0 r b acc)

/-- `CLS` (R150). -/
def execCls (s : State) : Result := .next ((s.setDisp blankDisplay).setDirty true).advance

/-- What `DRW` does once its sprite rows are read (R151): the coordinates are read before `VF` is written (log entry
16), `VF` is 1 on a collision and else 0 (log entry 17), `DIRTY` is always set. -/
def State.drawSprite (s : State) (x y : Reg) (rows : List Byte) : State :=
  let drawn := drawRows (s.getV x).toNat (s.getV y).toNat 0 rows (s.disp, false)
  (((s.setDisp drawn.1).setV flagReg (flagOf drawn.2)).setDirty true).advance

/-- `DRW Vx,Vy,n` (R151): all `n` rows are checked, on the grid or not; with `n = 0` there is no check (log entry
19). -/
def execDrw (x y : Reg) (n : BitVec 4) (s : State) : Result :=
  orRaise (s.mem.load (effAddr s.i 0) n.toNat) fun rows => .next (s.drawSprite x y rows)

end Sys2Proof.Machine
end

