-- ==== Sys2Proof/Machine/IndexMemory.lean ====
section
/-! DEFINITION. The meanings of the index-register and memory instructions (43_index_memory.md). None changes `I` as
part of an access (log entry 22); each memory access is checked as a whole before anything is written (20_memory.md
R52). -/

namespace Sys2Proof.Machine

/-- `LD I,nnn` (R140). -/
def execLdI (nnn : Addr12) (s : State) : Result := .next (s.setI (zext12 nnn)).advance

/-- `ADD I,Vx` (R141): modulo 65536, no flag (log entry 21). -/
def execAddI (x : Reg) (s : State) : Result := .next (s.setI (s.i + zext8 (s.getV x))).advance

/-- `LD F,Vx` (R142). -/
def execLdF (x : Reg) (s : State) : Result := .next (s.setI (glyphAddr (s.getV x))).advance

/-- `LD B,Vx` (R143). -/
def execLdB (x : Reg) (s : State) : Result :=
  orRaise (s.mem.store (effAddr s.i 0) (bcdDigits (s.getV x))) fun m => .next (s.setMem m).advance

/-- `LD [I],Vx` (R144). -/
def execDumpRegs (x : Reg) (s : State) : Result :=
  orRaise (s.mem.store (effAddr s.i 0) (s.regsUpTo x)) fun m => .next (s.setMem m).advance

/-- `LD Vx,[I]` (R145). -/
def execLoadRegs (x : Reg) (s : State) : Result :=
  orRaise (s.mem.load (effAddr s.i 0) (x.toNat + 1)) fun us => .next (s.setRegs (loadFrom s.v 0 us)).advance

end Sys2Proof.Machine
end

