-- ==== Sys2Proof/Machine/KeysTimers.lean ====
section
/-! DEFINITION. The meanings of the key and timer instructions (45_keys_timers.md). None can fault. -/

namespace Sys2Proof.Machine

/-- `SKP Vx` (R160): with `SKP_CLEARS_LATCH`, the tested latch is cleared when the skip is taken (log entry 3). -/
def execSkp (x : Reg) (s : State) : Result :=
  if s.key (keyIndex (s.getV x)) then
    .next ((if s.params.skpClearsLatch then s.setKeys (putKey s.keys (keyIndex (s.getV x)) false) else s).skipIf true)
  else .next (s.skipIf false)

/-- `SKNP Vx` (R161): no latch is written under any parameter. -/
def execSknp (x : Reg) (s : State) : Result := .next (s.skipIf (!s.key (keyIndex (s.getV x))))

/-- `LD Vx,K` once a latch is set and `k` is picked (R162). -/
def State.takeKey (s : State) (x : Reg) (k : BitVec 4) : State :=
  ((if s.params.waitKeyClearsLatch then s.setKeys (putKey s.keys k.toNat false) else s).setV x (k.setWidth 8)).advance

/-- `LD Vx,K` (R162): with no latch set nothing is written and the step is repeated; else the index of a set latch goes
to `V[x]` (log entries 4, 5, 33). -/
def execLdVxK (x : Reg) (s : State) : Result :=
  if s.keys = 0 then .next s else .next (s.takeKey x (pickKey s.params s.keys))

/-- `LD Vx,DT` (R163). -/
def execLdVxDt (x : Reg) (s : State) : Result := .next (s.setV x s.dt).advance

/-- `LD DT,Vx` (R164). -/
def execLdDtVx (x : Reg) (s : State) : Result := .next (s.setDt (s.getV x)).advance

/-- `LD ST,Vx` (R165). -/
def execLdStVx (x : Reg) (s : State) : Result := .next (s.setSt (s.getV x)).advance

end Sys2Proof.Machine
end

