-- ==== Sys2Proof/Machine/Step.lean ====
section
/-! DEFINITION. The `Step` transaction (40_step_cycle.md R90): fetch, decode, execute. -/

namespace Sys2Proof.Machine

/-- One step (R90): the instruction at `PC` is fetched and decoded (`State.fetch`) and its meaning applied; the first
fault met ends it (60_exceptions.md R175). `stepReport` gives the state a fault leaves. -/
def step (s : State) : Host.Outcome State Fault Refusal := orRaise s.fetch fun i => exec i s

/-- The state with one instruction's word placed where the next step fetches: the two bytes at `PC`, big-endian
(20_memory.md R51; log entry 35). A `PC` above 4094 cannot be fetched from (R91), and there nothing is changed. -/
def State.withFetchWord (s : State) (nbits w : Nat) : State :=
  if admitted s.pc.toNat 2 then
    s.setMem (s.mem.writeBytes s.pc.toNat [highByte (tableWord nbits w), lowByte (tableWord nbits w)])
  else s

end Sys2Proof.Machine
end

