-- ==== Sys2Proof/Machine/Driver.lean ====
section
/-! DEFINITION. The driver's transactions (00_scope.md R5): atomic, between steps, in one total order (R6; 20_memory.md
R60). `transact` gives for each the state after it and the reply. -/

namespace Sys2Proof.Machine

/-- The `Step` transaction whole (40_step_cycle.md R90): the new state and zero or one fault. A fault is not fatal: a
further step is always permitted (60_exceptions.md R173). -/
def stepReport (s : State) : State × Option Fault :=
  match step s with
  | .next t => (t, none)
  | .fault f => (s.afterFault f, some f)
  | .refused _ => (s, none)

/-- `Reset` (70_reset_and_hazards.md R200), with the parameter `FONT` loaded. The parameters and the place in the random
source, which are outside the architectural state, are kept (log entries 1, 7). -/
def State.resetFrom (s : State) : State :=
  { State.reset with
    mem := Memory.writeBytes [] 0 s.params.font.toList
    params := s.params
    draws := s.draws }

/-- `LoadProgram(bytes)` (70_reset_and_hazards.md R202; log entry 29): `none` is `ProgramTooLarge`, nothing written. -/
def State.loadProgram (s : State) (bytes : List Byte) : Option State :=
  if bytes.length > progMax then none else some (s.setMem (s.mem.writeBytes progBase bytes))

/-- A timer one tick later: toward zero, never below (60_exceptions.md R181). -/
def tick (b : Byte) : Byte := if b = 0 then 0 else b - 1

/-- `TimerTick` (R181): both timers (log entry 26). -/
def State.timerTick (s : State) : State := (s.setDt (tick s.dt)).setSt (tick s.st)

/-- `ClearDirty` (60_exceptions.md R183). -/
def State.clearDirty (s : State) : State := s.setDirty false

/-- `SetKey(k, b)` (60_exceptions.md R184); `none` is a refusal (log entry 28). -/
def State.setKey (s : State) (k b : Nat) : Option State :=
  if k < numKeys ∧ b < 2 then some (s.setKeys (putKey s.keys k (b == 1))) else none

/-- The elements of the state an accessor reads or a mutator writes (10_state.md R20, R38). -/
inductive Element where
  | v (k : Nat)
  | i
  | pc
  | stack (k : Nat)
  | sp
  | dt
  | st
  | disp (k : Nat)
  | dirty
  | key (k : Nat)
  | mem (a : Nat)
  deriving DecidableEq, Repr

/-- A read accessor (10_state.md R38): the element's value, or `none` for an index that names no element. -/
def State.peek (s : State) : Element → Option Nat
  | .v k => if k < 16 then some (s.getV (BitVec.ofNat 4 k)).toNat else none
  | .i => some s.i.toNat
  | .pc => some s.pc.toNat
  | .stack k => if k < stackDepth then some (s.slot k).toNat else none
  | .sp => some s.sp.val
  | .dt => some s.dt.toNat
  | .st => some s.st.toNat
  | .disp k => if k < dispWidth * dispHeight then some (s.disp.cell k).toNat else none
  | .dirty => some s.dirty.toNat
  | .key k => if k < numKeys then some (s.key k).toNat else none
  | .mem a => if a < memSize then some (s.mem.read a).toNat else none

/-- A mutator (10_state.md R38): the element written, or `none`, nothing written, where the index names no element or
the value breaks an invariant of R37 (log entry 28). -/
def State.poke (s : State) (e : Element) (n : Nat) : Option State :=
  match e with
  | .v k => if k < 16 ∧ n < 256 then some (s.setV (BitVec.ofNat 4 k) (BitVec.ofNat 8 n)) else none
  | .i => if n < 65536 then some (s.setI (BitVec.ofNat 16 n)) else none
  | .pc => if n < 65536 then some (s.setPc (BitVec.ofNat 16 n)) else none
  | .stack k => if k < stackDepth ∧ n < 65536 then some (s.setStack (s.stack.setIfInBounds k (BitVec.ofNat 16 n))) else none
  | .sp => if h : n < 17 then some (s.setSp ⟨n, h⟩) else none
  | .dt => if n < 256 then some (s.setDt (BitVec.ofNat 8 n)) else none
  | .st => if n < 256 then some (s.setSt (BitVec.ofNat 8 n)) else none
  | .disp k => if k < dispWidth * dispHeight ∧ n < 2 then some (s.setDisp (s.disp.setCell k (n == 1))) else none
  | .dirty => if n < 2 then some (s.setDirty (n == 1)) else none
  | .key k => if k < numKeys ∧ n < 2 then some (s.setKeys (putKey s.keys k (n == 1))) else none
  | .mem a => if a < memSize ∧ n < 256 then some (s.setMem (s.mem.write a (BitVec.ofNat 8 n))) else none

/-- The transactions of R5. -/
inductive Transaction where
  | step
  | reset
  | loadProgram (bytes : List Byte)
  | timerTick
  | setKey (k b : Nat)
  | clearDirty
  | peek (e : Element)
  | poke (e : Element) (n : Nat)
  deriving DecidableEq, Repr

/-- What a transaction returns to the driver. -/
inductive Reply where
  /-- done; for `Step`, no fault -/
  | ok
  /-- an accessor's value -/
  | value (n : Nat)
  /-- an accessor, a mutator or `SetKey` given an index or a value that is refused (R38) -/
  | refused
  /-- `LoadProgram` given more than 3584 bytes (70_reset_and_hazards.md R202) -/
  | programTooLarge
  /-- the fault a step reports (60_exceptions.md R170) -/
  | fault (f : Fault)
  deriving DecidableEq, Repr

/-- A state offered, or a reply with the state unchanged. -/
def replyOr (s : State) (o : Option State) (r : Reply) : State × Reply :=
  match o with
  | some t => (t, .ok)
  | none => (s, r)

/-- One transaction: the state after it and the reply (R5). -/
def transact (t : Transaction) (s : State) : State × Reply :=
  match t with
  | .step =>
    match stepReport s with
    | (u, none) => (u, .ok)
    | (u, some f) => (u, .fault f)
  | .reset => (s.resetFrom, .ok)
  | .loadProgram bytes => replyOr s (s.loadProgram bytes) .programTooLarge
  | .timerTick => (s.timerTick, .ok)
  | .setKey k b => replyOr s (s.setKey k b) .refused
  | .clearDirty => (s.clearDirty, .ok)
  | .peek e =>
    match s.peek e with
    | some n => (s, .value n)
    | none => (s, .refused)
  | .poke e n => replyOr s (s.poke e n) .refused

/-- The state after a sequence of transactions, first to last (R6). -/
def State.after (s : State) : List Transaction → State
  | [] => s
  | t :: ts => State.after (transact t s).1 ts

end Sys2Proof.Machine
end

