-- ==== Sys2Proof/Safety.lean ====
section
/-! DEFINITION. The terms in which claims about the machine are stated: frames, the tables of 10_state.md R23, R26 and R37,
invariants, runs. -/

namespace Sys2Proof.Machine

/-! ### Frames -/

/-- The parts of the state a frame speaks of, one a field of `State` but `params`. -/
inductive Part where
  | regs | i | pc | stack | sp | dt | st | disp | dirty | keys | mem | draws
  deriving DecidableEq, Repr

/-- From `s` to `t` nothing changed but the parts listed; memory is compared byte by byte through `Memory.read`, and the
parameters never change. -/
def Frame (changed : List Part) (s t : State) : Prop :=
  (Part.regs ∉ changed → ∀ r, t.getV r = s.getV r) ∧
  (Part.i ∉ changed → t.i = s.i) ∧
  (Part.pc ∉ changed → t.pc = s.pc) ∧
  (Part.stack ∉ changed → t.stack = s.stack) ∧
  (Part.sp ∉ changed → t.sp = s.sp) ∧
  (Part.dt ∉ changed → t.dt = s.dt) ∧
  (Part.st ∉ changed → t.st = s.st) ∧
  (Part.disp ∉ changed → t.disp = s.disp) ∧
  (Part.dirty ∉ changed → t.dirty = s.dirty) ∧
  (Part.keys ∉ changed → t.keys = s.keys) ∧
  (Part.mem ∉ changed → ∀ a, t.mem.read a = s.mem.read a) ∧
  (Part.draws ∉ changed → t.draws = s.draws) ∧
  t.params = s.params

/-- Every general register but those listed is unchanged. -/
def RegsKept (written : List Reg) (s t : State) : Prop := ∀ r, r ∉ written → t.getV r = s.getV r

/-- Every byte of memory outside the `n` bytes from address `a` up reads as before. -/
def BytesKept (a n : Nat) (s t : State) : Prop := ∀ b, b < a ∨ a + n ≤ b → t.mem.read b = s.mem.read b

/-- A change of the state applied to the next state, where there is one. -/
def mapNext (f : State → State) : Result → Result
  | .next t => .next (f t)
  | .fault r => .fault r
  | .refused r => .refused r

/-! ### Tables of the spec -/

/-- 10_state.md R23: the registers an instruction may write, flag included. -/
def mayWrite : Instr → Reg → Bool
  | .ldImm x _, r | .addImm x _, r | .ldReg x _, r | .orReg x _, r | .andReg x _, r | .xorReg x _, r => r == x
  | .addReg x _, r | .subReg x _, r | .shr x, r | .subnReg x _, r | .shl x, r => r == x || r == flagReg
  | .rnd x _, r | .ldVxDt x, r | .ldVxK x, r => r == x
  | .drw _ _ _, r => r == flagReg
  | .loadRegs x, r => decide (r.toNat ≤ x.toNat)
  | .cls, _ | .ret, _ | .jp _, _ | .call _, _ | .seImm _ _, _ | .sneImm _ _, _ | .seReg _ _, _ | .sneReg _ _, _ => false
  | .ldI _, _ | .jpV0 _, _ | .skp _, _ | .sknp _, _ | .ldDtVx _, _ | .ldStVx _, _ | .addI _, _ | .ldF _, _ => false
  | .ldB _, _ | .dumpRegs _, _ => false

/-- 10_state.md R26: `PC` after an instruction that does not fault. -/
def pcAfter (i : Instr) (s : State) : Word :=
  match i with
  | .jp nnn | .call nnn => BitVec.ofNat 16 nnn.toNat
  | .ret => s.slot (s.sp.val - 1) + 2
  | .jpV0 nnn => BitVec.ofNat 16 (nnn.toNat + (s.getV 0#4).toNat)
  | .seImm x nn => if s.getV x = nn then s.pc + 4 else s.pc + 2
  | .sneImm x nn => if s.getV x = nn then s.pc + 2 else s.pc + 4
  | .seReg x y => if s.getV x = s.getV y then s.pc + 4 else s.pc + 2
  | .sneReg x y => if s.getV x = s.getV y then s.pc + 2 else s.pc + 4
  | .skp x => if s.key ((s.getV x).toNat % 16) then s.pc + 4 else s.pc + 2
  | .sknp x => if s.key ((s.getV x).toNat % 16) then s.pc + 2 else s.pc + 4
  | .ldVxK _ => if ∃ k < 16, s.key k = true then s.pc + 2 else s.pc
  | .cls | .ldImm _ _ | .addImm _ _ | .ldReg _ _ | .orReg _ _ | .andReg _ _ | .xorReg _ _ | .addReg _ _ => s.pc + 2
  | .subReg _ _ | .shr _ | .subnReg _ _ | .shl _ | .ldI _ | .rnd _ _ | .drw _ _ _ | .ldVxDt _ | .ldDtVx _ => s.pc + 2
  | .ldStVx _ | .addI _ | .ldF _ | .ldB _ | .dumpRegs _ | .loadRegs _ => s.pc + 2

/-- 60_exceptions.md R171: the fault an instruction raises in a state, from the table's conditions. -/
def faultOf (i : Instr) (s : State) : Option Fault :=
  match i with
  | .call _ => if s.sp.val = 16 then some .stackOverflow else none
  | .ret => if s.sp.val = 0 then some .stackUnderflow else none
  | .drw _ _ n =>
    if 1 ≤ n.toNat ∧ s.i.toNat + n.toNat - 1 > 4095 then some (.memoryOutOfBounds (max s.i.toNat 4096)) else none
  | .ldB _ => if s.i.toNat + 2 > 4095 then some (.memoryOutOfBounds (max s.i.toNat 4096)) else none
  | .dumpRegs x | .loadRegs x =>
    if s.i.toNat + x.toNat > 4095 then some (.memoryOutOfBounds (max s.i.toNat 4096)) else none
  | .cls | .jp _ | .seImm _ _ | .sneImm _ _ | .seReg _ _ | .ldImm _ _ | .addImm _ _ | .ldReg _ _ | .orReg _ _ => none
  | .andReg _ _ | .xorReg _ _ | .addReg _ _ | .subReg _ _ | .shr _ | .subnReg _ _ | .shl _ | .sneReg _ _ => none
  | .ldI _ | .jpV0 _ | .rnd _ _ | .skp _ | .sknp _ | .ldVxDt _ | .ldVxK _ | .ldDtVx _ | .ldStVx _ | .addI _ => none
  | .ldF _ => none

/-- 10_state.md R37: an element holds a value below this (that of `SP` by log entry 10). -/
def Element.limit : Element → Nat
  | .v _ | .dt | .st | .mem _ => 256
  | .i | .pc | .stack _ => 65536
  | .sp => 17
  | .disp _ | .key _ | .dirty => 2

/-! ### Sprites, cell by cell (44_display.md R151) -/

/-- Whether a sprite of rows `rows` at (`x0`, `y0`) has a 1 bit on the pixel (`px`, `py`). -/
def spritePixel (x0 y0 : Nat) (rows : List Byte) (px py : Nat) : Bool :=
  decide (x0 ≤ px ∧ px < x0 + 8 ∧ y0 ≤ py ∧ py < y0 + rows.length) &&
    (rows.getD (py - y0) 0).getLsbD (7 - (px - x0))

/-- The cell of the pixel (`px`, `py`) (10_state.md R29). -/
def State.pixel (s : State) (px py : Nat) : Bool := s.disp.cell (py * 64 + px)

/-! ### Invariants and runs -/

/-- 10_state.md R37, as far as the types of `State` do not give it already: memory is in its canonical form. -/
def State.consistent (s : State) : Bool := s.mem.wf

/-- 10_state.md R25, R27: `PC` is what a program can make it, and every occupied stack slot holds an address a `CALL`
was fetched from. -/
def State.CodeBounded (s : State) : Prop :=
  s.pc.toNat ≤ 0x10FE ∧ ∀ k, k < s.sp.val → (s.slot k).toNat ≤ 4094

/-- The step completes: it reports no fault. -/
def State.Steps (s : State) : Prop := ∃ t, step s = .next t

/-- A safe run of `n` steps: none of them faults. -/
def State.RunsFor (s : State) (n : Nat) : Prop := ∃ t, Sys2Proof.core.run n s = .next t

/-- A state the driver can reach from reset (10_state.md R36). -/
def State.Reachable (s : State) : Prop := ∃ ts, s = State.reset.after ts

end Sys2Proof.Machine
end

