-- ==== Sys2Proof/Certificates/Slice0/Obligations.lean ====
section
/-! DEFINITION. The statements for the provers. `Frame`, `RegsKept` and `BytesKept` (Safety.lean) say what an
instruction leaves unchanged; a statement of an instruction's result concludes that `exec` answers a next state. -/

open Sys2Proof Sys2Proof.Machine

/-! ### Encoding (30_encoding.md) -/

/-- Words written out from R75's encodings decode to the instructions they stand for, and words of R77 to none. -/
def Obligations.SpecWordsDecode : Prop :=
  decodeWord 0x00E0 = some .cls ∧ decodeWord 0x2300 = some (.call 0x300) ∧ decodeWord 0x1234 = some (.jp 0x234) ∧
  decodeWord 0x332A = some (.seImm 3 0x2A) ∧ decodeWord 0x8F14 = some (.addReg 0xF 1) ∧
  decodeWord 0x8A06 = some (.shr 0xA) ∧ decodeWord 0x8127 = some (.subnReg 1 2) ∧ decodeWord 0xA2F0 = some (.ldI 0x2F0) ∧
  decodeWord 0xC30F = some (.rnd 3 0x0F) ∧ decodeWord 0xD015 = some (.drw 0 1 5) ∧ decodeWord 0xE2A1 = some (.sknp 2) ∧
  decodeWord 0xF533 = some (.ldB 5) ∧ decodeWord 0xFF55 = some (.dumpRegs 0xF) ∧ decodeWord 0xF265 = some (.loadRegs 2) ∧
  decodeWord 0x0000 = none ∧ decodeWord 0x8128 = none ∧ decodeWord 0xE29F = none ∧ decodeWord 0xF300 = none

/-- Decode and encode agree: every instruction, with every operand at every value its field admits, is read back from
its encoded word and from its two bytes at the head of any bytes (R70, R75). -/
def Obligations.DecodeOfEncodeIsIdentity : Prop :=
  ∀ (i : Instr) (rest : List Byte),
    decodeWord (encode i) = some i ∧ decodeBytes (encodeBytes i ++ rest) = .ok (i, rest)

/-- The other direction: a word that decodes matches the row of the map that has the instruction's name, and encoding
gives the word back with its don't-care bits cleared (R75, R76; the don't-care bits are log entries 12, 13, 15). -/
def Obligations.EncodeOfDecodeIsCanonical : Prop :=
  ∀ (w : Word) (i : Instr), decodeWord w = some i →
    ∃ r ∈ opcodeMap, r.mnemonic = i.mnemonic ∧ r.accepts w = true ∧ encode i = w &&& ~~~r.dontCare

/-- The decoder knows exactly the words of the map, no word matches two rows (R73, R75), and the unknown words are
exactly those of R77's table (its keys of families 0x0 and 0x8 by log entries 12 and 32). -/
def Obligations.DecoderFollowsTheMap : Prop :=
  (∀ w : Word, decodeWord w = none ↔ isInstructionWord w = false) ∧
  (∀ w : Word, ∀ r ∈ opcodeMap, ∀ r' ∈ opcodeMap, r.accepts w = true → r'.accepts w = true → r = r') ∧
  ∀ w : Word, decodeWord w = none ↔
    (w.toNat / 4096 = 0 ∧ w.toNat % 256 ∉ [0xE0, 0xEE]) ∨
    (w.toNat / 4096 = 8 ∧ w.toNat % 16 ∈ [0x8, 0x9, 0xA, 0xB, 0xC, 0xD, 0xF]) ∨
    (w.toNat / 4096 = 14 ∧ w.toNat % 256 ∉ [0x9E, 0xA1]) ∨
    (w.toNat / 4096 = 15 ∧ w.toNat % 256 ∉ [0x07, 0x0A, 0x15, 0x18, 0x1E, 0x29, 0x33, 0x55, 0x65])

/-- Two words that match one row and differ in its don't-care bits only are the same instruction (R76; log entries 12,
13, 15). -/
def Obligations.DontCareBitsDoNotMatter : Prop :=
  ∀ r ∈ opcodeMap, ∀ w w' : Word, r.accepts w = true → (w ^^^ w') &&& ~~~r.dontCare = 0 → decodeWord w = decodeWord w'

/-! ### The step (40_step_cycle.md, 60_exceptions.md) -/

/-- When the two bytes at `PC` exist and their word, `mem[PC] * 256 + mem[PC + 1]`, decodes to `i`, the step is `exec i`
at that state: the fetch changes nothing (R51, R91, R92, R93). -/
def Obligations.StepRunsTheDecodedInstruction : Prop :=
  ∀ (s : State) (i : Instr), s.pc.toNat + 1 ≤ 4095 →
    decodeWord (BitVec.ofNat 16 ((s.mem.read s.pc.toNat).toNat * 256 + (s.mem.read (s.pc.toNat + 1)).toNat)) = some i →
    step s = exec i s

/-- An instruction word stored at `PC` is the one the very next step runs, whatever lay there (R61). -/
def Obligations.StoredWordIsFetched : Prop :=
  ∀ (s : State) (nbits w : Nat) (i : Instr), s.pc.toNat + 1 ≤ 4095 → decodeTableWord nbits w = some i →
    step (s.withFetchWord nbits w) = exec i (s.withFetchWord nbits w) ∧
    BytesKept s.pc.toNat 2 s (s.withFetchWord nbits w) ∧ Frame [.mem] s (s.withFetchWord nbits w)

/-- The faults of the fetch and of the decoder, in that order (R91, R174, R175; the reported address is log entry
9). -/
def Obligations.FetchFaultsBeforeDecode : Prop :=
  ∀ s : State,
    (s.pc.toNat + 1 > 4095 → step s = .fault (.memoryOutOfBounds (max s.pc.toNat 4096))) ∧
    (∀ w, s.pc.toNat + 1 ≤ 4095 →
      w = BitVec.ofNat 16 ((s.mem.read s.pc.toNat).toNat * 256 + (s.mem.read (s.pc.toNat + 1)).toNat) →
      decodeWord w = none → step s = .fault (.unknownOpcode w))

/-- R171's table is complete: an instruction completes exactly where the table names no fault, and else reports the
fault named (`faultOf`; log entries 9, 10, 19 for its conditions). -/
def Obligations.FaultTableIsComplete : Prop :=
  ∀ (i : Instr) (s : State),
    (faultOf i s = none → ∃ t, exec i s = .next t) ∧ ∀ f, faultOf i s = some f → exec i s = .fault f

/-- Every step completes or reports one of the four faults, never a refusal; a reported address is above 4095 and an
unknown word is no instruction (R90, R170; the reported address is log entry 9). -/
def Obligations.StepCompletesOrReports : Prop :=
  ∀ s : State, (∃ t, step s = .next t) ∨
    ∃ f, step s = .fault f ∧
      (∀ a, f = .memoryOutOfBounds a → 4096 ≤ a ∧ a ≤ 65535) ∧ (∀ w, f = .unknownOpcode w → decodeWord w = none)

/-- A faulting step leaves the state it found, but that `UnknownOpcode` moves `PC` by 2 where the parameter says so, and
then changes nothing else; where it changed nothing, stepping on reports the same fault any number of times (R172, R173,
R174; log entries 2, 11). -/
def Obligations.FaultingStepChangesNothing : Prop :=
  ∀ (s : State) (f : Fault), step s = .fault f →
    (stepReport s).2 = some f ∧
    ((∀ w, f ≠ .unknownOpcode w) → (stepReport s).1 = s) ∧
    (∀ w, f = .unknownOpcode w →
      (s.params.unkPcAdvances = false → (stepReport s).1 = s) ∧
      (s.params.unkPcAdvances = true → (stepReport s).1.pc = s.pc + 2 ∧ Frame [.pc] s (stepReport s).1)) ∧
    ((stepReport s).1 = s → ∀ n, transact .step (s.after (List.replicate n .step)) = (s, .fault f))

/-- The access primitives of memory: `MemRead` of one byte and of a big-endian word, `MemWrite` of one byte, each with its
check (R53, R54; the reported address is log entry 9). A store changes exactly one cell. -/
def Obligations.MemoryPrimitivesCheckAndAccess : Prop :=
  ∀ (m : Memory) (a : Nat) (v : Byte),
    (a ≤ 4095 → m.load a 1 = .ok [m.read a] ∧
      ∃ m', m.store a [v] = .ok m' ∧ m'.read a = v ∧ ∀ b, b ≠ a → m'.read b = m.read b) ∧
    (a > 4095 → m.load a 1 = .error (.memoryOutOfBounds a) ∧ m.store a [v] = .error (.memoryOutOfBounds a)) ∧
    (a + 1 ≤ 4095 → ∃ w, m.loadWord a = .ok w ∧ w.toNat = (m.read a).toNat * 256 + (m.read (a + 1)).toNat) ∧
    (a + 1 > 4095 → m.loadWord a = .error (.memoryOutOfBounds (max a 4096)))

/-- Memory is an array of 4096 bytes, addresses 0x000 to 0xFFF (R32): any 4096 bytes are the contents of exactly one
memory, and writing one address changes that byte and no other. -/
def Obligations.MemoryIsAnArrayOfBytes : Prop :=
  (∀ f : Nat → Byte, ∃ m : Memory, m.wf = true ∧ ∀ a, a < 4096 → m.read a = f a) ∧
  (∀ m m' : Memory, m.wf = true → m'.wf = true → (∀ a, a < 4096 → m.read a = m'.read a) → m = m') ∧
  ∀ (m : Memory) (a : Nat) (v : Byte), m.wf = true → a < 4096 →
    (m.write a v).wf = true ∧ (m.write a v).read a = v ∧ ∀ b, b ≠ a → (m.write a v).read b = m.read b

/-! ### Rules about every instruction -/

/-- R26's table: where each instruction leaves `PC`. The condition of `SKP` and `SKNP` is the latch of the value's low nibble
(R160, R161; log entry 20). -/
def Obligations.ProgramCounterTable : Prop :=
  ∀ (i : Instr) (s t : State), exec i s = .next t → t.pc = pcAfter i s

/-- R23's table: no instruction writes a general register the table does not give it (log entry 14 for the logic
instructions and `VF`). -/
def Obligations.RegistersWrittenTable : Prop :=
  ∀ (i : Instr) (s t : State) (r : Reg), exec i s = .next t → mayWrite i r = false → t.getV r = s.getV r

/-- Only `CALL` and `RET` read or write the stack and `SP`: any other instruction does the same whatever they hold, and
leaves them (R27). -/
def Obligations.StackReachedOnlyByCallAndRet : Prop :=
  ∀ (i : Instr) (s : State) (k : Vector Word 16) (n : Fin 17), i ≠ .ret → (∀ nnn, i ≠ .call nnn) →
    exec i ((s.setStack k).setSp n) = mapNext (fun t => (t.setStack k).setSp n) (exec i s)

/-- `DIRTY` is set by `CLS` and `DRW` and by no other instruction; no instruction clears it and none reads it; of the
driver's transactions that write no single element, only `ClearDirty` and `Reset` clear it (R30; a mutator can write
it too, log entry 28). -/
def Obligations.DirtySetByDisplayInstructionsOnly : Prop :=
  (∀ (i : Instr) (s : State) (b : Bool), i ≠ .cls → (∀ x y n, i ≠ .drw x y n) →
    exec i (s.setDirty b) = mapNext (fun t => t.setDirty b) (exec i s)) ∧
  (∀ (s t : State), exec .cls s = .next t → t.dirty = true) ∧
  (∀ (x y : Reg) (n : BitVec 4) (s t : State), exec (.drw x y n) s = .next t → t.dirty = true) ∧
  (∀ (i : Instr) (s t : State) (b : Bool), i = .cls ∨ (∃ x y n, i = .drw x y n) → exec i s = .next t →
    exec i (s.setDirty b) = .next t) ∧
  (∀ s : State, (transact .clearDirty s).1.dirty = false ∧ (transact .reset s).1.dirty = false) ∧
  ∀ (tr : Transaction) (s : State), s.dirty = true → tr ≠ .clearDirty → tr ≠ .reset → (∀ e n, tr ≠ .poke e n) →
    (transact tr s).1.dirty = true

/-- `Step` never counts a timer down: `DT` changes by `LD DT,Vx` only and is read by `LD Vx,DT` only (`LD DT,Vx` does not
read it), `ST` changes by `LD ST,Vx` only and no instruction reads it (R28, R94). -/
def Obligations.TimersReachedOnlyByTheirMoves : Prop :=
  (∀ (i : Instr) (s : State) (b : Byte), (∀ x, i ≠ .ldDtVx x) → (∀ x, i ≠ .ldVxDt x) →
    exec i (s.setDt b) = mapNext (fun t => t.setDt b) (exec i s)) ∧
  (∀ (x : Reg) (s t : State), exec (.ldVxDt x) s = .next t → t.dt = s.dt) ∧
  (∀ (i : Instr) (s : State) (b : Byte), (∀ x, i ≠ .ldStVx x) →
    exec i (s.setSt b) = mapNext (fun t => t.setSt b) (exec i s)) ∧
  ∀ (x : Reg) (s : State) (b : Byte),
    exec (.ldStVx x) (s.setSt b) = exec (.ldStVx x) s ∧ exec (.ldDtVx x) (s.setDt b) = exec (.ldDtVx x) s

/-- Which instructions reach memory after the fetch, the display and the latches: every other one does the same
whatever they hold, and leaves them (R29, R50, R56). -/
def Obligations.SpacesReachedOnlyByTheirInstructions : Prop :=
  ∀ (i : Instr) (s : State),
    (∀ m : Memory, (∀ x y n, i ≠ .drw x y n) → (∀ x, i ≠ .ldB x ∧ i ≠ .dumpRegs x ∧ i ≠ .loadRegs x) →
      exec i (s.setMem m) = mapNext (fun t => t.setMem m) (exec i s)) ∧
    (∀ d : Display, i ≠ .cls → (∀ x y n, i ≠ .drw x y n) →
      exec i (s.setDisp d) = mapNext (fun t => t.setDisp d) (exec i s)) ∧
    (∀ k : BitVec 16, (∀ x, i ≠ .skp x ∧ i ≠ .sknp x ∧ i ≠ .ldVxK x) →
      exec i (s.setKeys k) = mapNext (fun t => t.setKeys k) (exec i s))

/-- `I` is written by `LD I,nnn`, `ADD I,Vx` and `LD F,Vx` only, and read by `ADD I,Vx` and the memory instructions
only; these last leave it (R24; that they leave it is log entry 22). -/
def Obligations.IndexRegisterReachedOnlyByItsInstructions : Prop :=
  (∀ (i : Instr) (s : State) (a : Word), (∀ nnn, i ≠ .ldI nnn) → (∀ x y n, i ≠ .drw x y n) →
    (∀ x, i ≠ .addI x ∧ i ≠ .ldF x ∧ i ≠ .ldB x ∧ i ≠ .dumpRegs x ∧ i ≠ .loadRegs x) →
    exec i (s.setI a) = mapNext (fun t => t.setI a) (exec i s)) ∧
  (∀ (i : Instr) (s t : State), (∀ nnn, i ≠ .ldI nnn) → (∀ x, i ≠ .addI x ∧ i ≠ .ldF x) → exec i s = .next t →
    t.i = s.i) ∧
  ∀ (nnn : Addr12) (x : Reg) (s : State) (a : Word),
    exec (.ldI nnn) (s.setI a) = exec (.ldI nnn) s ∧ exec (.ldF x) (s.setI a) = exec (.ldF x) s

/-- No instruction sets a latch; with both clearing parameters false none changes one (R31; log entries 3, 4). -/
def Obligations.LatchesNeverSetByInstructions : Prop :=
  ∀ (i : Instr) (s t : State), exec i s = .next t →
    (∀ k, t.key k = true → s.key k = true) ∧
    (s.params.skpClearsLatch = false → s.params.waitKeyClearsLatch = false → t.keys = s.keys)

/-- The random source and the font parameter: an instruction other than `RND` neither takes a random byte nor depends on
how many were taken (R131; log entry 7), and no instruction depends on `FONT`, whose bytes matter only as `Reset` puts
them in memory (R33). -/
def Obligations.InstructionsIgnoreRandomSourceAndFont : Prop :=
  (∀ (i : Instr) (s : State) (n : Nat), (∀ x nn, i ≠ .rnd x nn) →
    exec i (s.setDraws n) = mapNext (fun t => t.setDraws n) (exec i s)) ∧
  ∀ (i : Instr) (s : State) (font : Vector Byte 80),
    exec i { s with params := { s.params with font := font } } =
      mapNext (fun t => { t with params := { t.params with font := font } }) (exec i s)

/-! ### Invariants -/

/-- Every step keeps memory in its canonical form: no cell above 4095 appears (R37 (e)). -/
def Obligations.StepKeepsMemoryForm : Prop :=
  ∀ s t : State, s.consistent = true → step s = .next t → t.consistent = true

/-- Every transaction, faulting steps and refused ones too, keeps R37's invariants and the parameters, which are
configuration (R8, R20; log entry 1); so every state the driver can reach has them. -/
def Obligations.TransactionsKeepInvariants : Prop :=
  (∀ (ts : List Transaction) (s : State), s.consistent = true → (s.after ts).consistent = true) ∧
  (∀ s : State, s.Reachable → s.consistent = true) ∧
  ∀ (ts : List Transaction) (s : State), (s.after ts).params = s.params

/-- Reset meets both invariants. -/
def Obligations.ResetMeetsInvariants : Prop :=
  State.reset.consistent = true ∧ State.reset.CodeBounded

/-- R25's bound, as an invariant of steps: `PC` stays at most 0x10FE and every occupied slot holds an address a `CALL`
was fetched from, so the sum of `RET` never wraps (the spec derives it; log entry 23). -/
def Obligations.StepKeepsCodeBound : Prop :=
  ∀ s t : State, s.CodeBounded → step s = .next t → t.CodeBounded

/-- The accessors see the whole state (R20): consistent states that agree on every element, on the parameters and on
the place in the random source are equal. -/
def Obligations.AccessorsSeeTheWholeState : Prop :=
  ∀ s t : State, s.consistent = true → t.consistent = true → (∀ e, s.peek e = t.peek e) → s.params = t.params →
    s.draws = t.draws → s = t

/-- The occupied slots, oldest first, are a list: `CALL` appends its own address, `RET` takes the last entry and goes to
2 past it, nothing else changes the list (R27, R100, R102; the capacity is log entry 10). -/
def Obligations.StackIsLastInFirstOut : Prop :=
  ∀ (i : Instr) (s t : State), exec i s = .next t →
    let slots := fun u : State => (List.range u.sp.val).map u.slot
    (∀ nnn, i = .call nnn → slots t = slots s ++ [s.pc]) ∧
    (i = .ret → ∃ a, slots s = slots t ++ [a] ∧ t.pc = a + 2) ∧
    (i ≠ .ret → (∀ nnn, i ≠ .call nnn) → slots t = slots s)

/-! ### The driver's transactions -/

/-- Accessors and mutators (R38, R37; the refusals are log entry 28, the range of `SP` is log entry 10). An accessor answers
the value of its element and changes nothing. A mutator given an element and a value in its range (`Element.limit`) takes
effect: it writes that element and no other, and a later accessor reads what was written. An index that names no element
and a value out of range are refused without effect. -/
def Obligations.MutatorsWriteOneElementOrNothing : Prop :=
  (∀ (s : State) (e : Element) (n : Nat), s.peek e ≠ none → n < e.limit → ∃ t, s.poke e n = some t) ∧
  (∀ (s t : State) (e : Element) (n : Nat), s.poke e n = some t →
    transact (.poke e n) s = (t, .ok) ∧ t.peek e = some n ∧ (∀ e', e' ≠ e → t.peek e' = s.peek e') ∧
    t.params = s.params ∧ t.draws = s.draws) ∧
  (∀ (s : State) (e : Element) (n : Nat), s.peek e = none ∨ e.limit ≤ n → transact (.poke e n) s = (s, .refused)) ∧
  (∀ (s : State) (e : Element) (n : Nat), s.peek e = some n → transact (.peek e) s = (s, .value n) ∧ n < e.limit) ∧
  (∀ (s : State) (e : Element), s.peek e = none → transact (.peek e) s = (s, .refused)) ∧
  ∀ (s : State) (k : Nat),
    s.peek (.v k) = (if k < 16 then some (s.getV (BitVec.ofNat 4 k)).toNat else none) ∧
    s.peek .i = some s.i.toNat ∧ s.peek .pc = some s.pc.toNat ∧ s.peek .sp = some s.sp.val ∧
    s.peek (.stack k) = (if k < 16 then some (s.slot k).toNat else none) ∧
    s.peek .dt = some s.dt.toNat ∧ s.peek .st = some s.st.toNat ∧
    s.peek (.disp k) = (if k < 2048 then some (s.disp.cell k).toNat else none) ∧
    s.peek .dirty = some s.dirty.toNat ∧
    s.peek (.key k) = (if k < 16 then some (s.key k).toNat else none) ∧
    s.peek (.mem k) = (if k < 4096 then some (s.mem.read k).toNat else none)

/-- `LoadProgram` of at most 3584 bytes copies them to 0x200 and changes nothing else; of more, it writes nothing (R202;
90_conflicts.md C1, log entry 29). -/
def Obligations.ProgramLoadIsAllOrNothing : Prop :=
  ∀ (s : State) (bytes : List Byte),
    (bytes.length ≤ 3584 → ∃ t, transact (.loadProgram bytes) s = (t, .ok) ∧
      (∀ k, k < bytes.length → t.mem.read (0x200 + k) = bytes.getD k 0) ∧
      BytesKept 0x200 bytes.length s t ∧ Frame [.mem] s t) ∧
    (bytes.length > 3584 → transact (.loadProgram bytes) s = (s, .programTooLarge))

/-- What `Reset` leaves, from any state (R36, R200; `I`, `SP` and `DIRTY` by log entry 25, the font bytes by log entry
6). -/
def Obligations.ResetLeavesTheTable : Prop :=
  ∀ s : State, ∃ t, transact .reset s = (t, .ok) ∧
    (∀ r, t.getV r = 0) ∧ t.i = 0 ∧ t.pc = 0x200 ∧ (∀ k, t.slot k = 0) ∧ t.sp.val = 0 ∧ t.dt = 0 ∧ t.st = 0 ∧
    (∀ k, k < 2048 → t.disp.cell k = false) ∧ t.dirty = false ∧ (∀ k, t.key k = false) ∧
    (∀ a, a < 80 → t.mem.read a = s.params.font.toList.getD a 0) ∧ (∀ a, 80 ≤ a → t.mem.read a = 0)

/-- Boot: after `Reset` and `LoadProgram` the first step runs the instruction the program's first two bytes encode, with
`PC` at 0x200; with nothing loaded it reports `UnknownOpcode(0x0000)` (R201, R203; log entry 12). -/
def Obligations.BootRunsTheProgram : Prop :=
  (∀ s : State, (stepReport (s.after [.reset])).2 = some (.unknownOpcode 0x0000)) ∧
  ∀ (s : State) (hi lo : Byte) (more : List Byte) (i : Instr), more.length + 2 ≤ 3584 →
    decodeWord (BitVec.ofNat 16 (hi.toNat * 256 + lo.toNat)) = some i →
    let t := s.after [.reset, .loadProgram (hi :: lo :: more)]
    t.pc = 0x200 ∧ step t = exec i t

/-- `n` ticks count each timer down by `n`, never below 0, and change nothing else (R181; that one tick counts both is log
entry 26). -/
def Obligations.TicksCountDownToZero : Prop :=
  ∀ (s : State) (n : Nat),
    (s.after (List.replicate n .timerTick)).dt.toNat = s.dt.toNat - n ∧
    (s.after (List.replicate n .timerTick)).st.toNat = s.st.toNat - n ∧
    Frame [.dt, .st] s (s.after (List.replicate n .timerTick))

/-- `ClearDirty` clears `DIRTY` and changes nothing else (R183). -/
def Obligations.ClearDirtyClearsTheFlag : Prop :=
  ∀ s : State, ∃ t, transact .clearDirty s = (t, .ok) ∧ t.dirty = false ∧ Frame [.dirty] s t

/-- `SetKey` writes one latch and nothing else; out of range it is refused without effect (R184, R38; log entry 28). -/
def Obligations.SetKeyWritesOneLatch : Prop :=
  ∀ (s : State) (k b : Nat),
    (k ≤ 15 → b ≤ 1 → ∃ t, transact (.setKey k b) s = (t, .ok) ∧ t.key k = (b == 1) ∧
      (∀ j, j ≠ k → t.key j = s.key j) ∧ Frame [.keys] s t) ∧
    (k > 15 ∨ b > 1 → transact (.setKey k b) s = (s, .refused))

/-! ### Control flow (41_control_flow.md) -/

/-- `JP nnn` (R101), its encoding included (the opcode number is R75's, log entry 32), and `JP V0,nnn` (R107): the plain
sum with register 0, not masked to 12 bits. -/
def Obligations.JumpSetsTheCounter : Prop :=
  (∀ w : Word, w &&& 0xF000 = 0x1000 → decodeWord w = some (.jp (w.extractLsb' 0 12))) ∧
  (∀ (nnn : Addr12) (s : State), ∃ t, exec (.jp nnn) s = .next t ∧ t.pc.toNat = nnn.toNat ∧ Frame [.pc] s t) ∧
  ∀ (nnn : Addr12) (s : State), ∃ t, exec (.jpV0 nnn) s = .next t ∧
    t.pc.toNat = nnn.toNat + (s.getV 0).toNat ∧ Frame [.pc] s t

/-- `CALL nnn` (R102): below 16 occupied slots the address of the call is pushed; at 16, `StackOverflow` (log entry
10). -/
def Obligations.CallPushesItsOwnAddress : Prop :=
  ∀ (nnn : Addr12) (s : State),
    (s.sp.val < 16 → ∃ t, exec (.call nnn) s = .next t ∧ t.slot s.sp.val = s.pc ∧ t.sp.val = s.sp.val + 1 ∧
      (∀ k, k ≠ s.sp.val → t.slot k = s.slot k) ∧ t.pc.toNat = nnn.toNat ∧ Frame [.stack, .sp, .pc] s t) ∧
    (s.sp.val = 16 → exec (.call nnn) s = .fault .stackOverflow)

/-- `RET` (R100): with a slot occupied, to 2 past the popped address, every slot left in place (log entry 24); with none,
`StackUnderflow`. -/
def Obligations.ReturnGoesPastTheCall : Prop :=
  ∀ s : State,
    (0 < s.sp.val → ∃ t, exec .ret s = .next t ∧ t.sp.val = s.sp.val - 1 ∧
      t.pc.toNat = ((s.slot (s.sp.val - 1)).toNat + 2) % 65536 ∧ Frame [.sp, .pc] s t) ∧
    (s.sp.val = 0 → exec .ret s = .fault .stackUnderflow)

/-- A call and the return from it restore `SP` and leave `PC` 2 past the call, every register and all of memory as they
were (95_test_vectors.md S7; R100, R102; the capacity is log entry 10). -/
def Obligations.CallThenReturnRestores : Prop :=
  ∀ (nnn : Addr12) (s : State), s.sp.val < 16 → ∃ t u, exec (.call nnn) s = .next t ∧ exec .ret t = .next u ∧
    u.pc = s.pc + 2 ∧ Frame [.stack, .pc] s u ∧ ∀ k, k < s.sp.val → u.slot k = s.slot k

/-- `SE Vx,nn` and `SNE Vx,nn` (R103, R104), their encodings included (the opcode numbers are log entry 32); the skipped
word is not looked at. -/
def Obligations.SkipOnImmediate : Prop :=
  (∀ w : Word, w &&& 0xF000 = 0x3000 → decodeWord w = some (.seImm (w.extractLsb' 8 4) (w.extractLsb' 0 8))) ∧
  (∀ w : Word, w &&& 0xF000 = 0x4000 → decodeWord w = some (.sneImm (w.extractLsb' 8 4) (w.extractLsb' 0 8))) ∧
  ∀ (x : Reg) (nn : Byte) (s : State), ∃ t u,
    exec (.seImm x nn) s = .next t ∧ t.pc = (if s.getV x = nn then s.pc + 4 else s.pc + 2) ∧ Frame [.pc] s t ∧
    exec (.sneImm x nn) s = .next u ∧ u.pc = (if s.getV x ≠ nn then s.pc + 4 else s.pc + 2) ∧ Frame [.pc] s u

/-- `SE Vx,Vy` and `SNE Vx,Vy` (R105, R106): with `x = y` the first always skips and the second never. -/
def Obligations.SkipOnRegister : Prop :=
  ∀ (x y : Reg) (s : State), ∃ t u,
    exec (.seReg x y) s = .next t ∧ t.pc = (if s.getV x = s.getV y then s.pc + 4 else s.pc + 2) ∧ Frame [.pc] s t ∧
    exec (.sneReg x y) s = .next u ∧ u.pc = (if s.getV x ≠ s.getV y then s.pc + 4 else s.pc + 2) ∧ Frame [.pc] s u ∧
    (x = y → t.pc = s.pc + 4 ∧ u.pc = s.pc + 2)

/-! ### Registers and ALU (42_alu.md) -/

/-- `LD Vx,nn` and `ADD Vx,nn` (R120, R121), their encodings included (the opcode numbers are log entry 32): modulo 256,
and `VF` changes only as the destination. -/
def Obligations.ImmediateLoadAndAdd : Prop :=
  (∀ w : Word, w &&& 0xF000 = 0x6000 → decodeWord w = some (.ldImm (w.extractLsb' 8 4) (w.extractLsb' 0 8))) ∧
  (∀ w : Word, w &&& 0xF000 = 0x7000 → decodeWord w = some (.addImm (w.extractLsb' 8 4) (w.extractLsb' 0 8))) ∧
  ∀ (x : Reg) (nn : Byte) (s : State), ∃ t u,
    exec (.ldImm x nn) s = .next t ∧ t.getV x = nn ∧ RegsKept [x] s t ∧ t.pc = s.pc + 2 ∧ Frame [.regs, .pc] s t ∧
    exec (.addImm x nn) s = .next u ∧ (u.getV x).toNat = ((s.getV x).toNat + nn.toNat) % 256 ∧ RegsKept [x] s u ∧
    u.pc = s.pc + 2 ∧ Frame [.regs, .pc] s u

/-- `LD Vx,Vy`, `OR`, `AND`, `XOR` (R122 to R125): bit by bit, and `VF` changes only as the destination (log entry
14). -/
def Obligations.AssignAndLogicLeaveTheFlag : Prop :=
  ∀ (x y : Reg) (s : State), ∃ t1 t2 t3 t4,
    exec (.ldReg x y) s = .next t1 ∧ t1.getV x = s.getV y ∧
    exec (.orReg x y) s = .next t2 ∧ (∀ k, (t2.getV x).getLsbD k = ((s.getV x).getLsbD k || (s.getV y).getLsbD k)) ∧
    exec (.andReg x y) s = .next t3 ∧ (∀ k, (t3.getV x).getLsbD k = ((s.getV x).getLsbD k && (s.getV y).getLsbD k)) ∧
    exec (.xorReg x y) s = .next t4 ∧ (∀ k, (t4.getV x).getLsbD k = ((s.getV x).getLsbD k ^^ (s.getV y).getLsbD k)) ∧
    ∀ t ∈ [t1, t2, t3, t4], RegsKept [x] s t ∧ t.pc = s.pc + 2 ∧ Frame [.regs, .pc] s t

/-- `ADD Vx,Vy` (R126): the sum modulo 256 and its carry, from the old values; with `x = 0xF` the flag stands (R119, log
entry 16). -/
def Obligations.AddWritesSumThenCarry : Prop :=
  ∀ (x y : Reg) (s : State), ∃ t, exec (.addReg x y) s = .next t ∧
    (x ≠ 0xF#4 → (t.getV x).toNat = ((s.getV x).toNat + (s.getV y).toNat) % 256) ∧
    (t.getV 0xF#4).toNat = (if (s.getV x).toNat + (s.getV y).toNat > 255 then 1 else 0) ∧
    RegsKept [x, 0xF#4] s t ∧ t.pc = s.pc + 2 ∧ Frame [.regs, .pc] s t

/-- `SUB Vx,Vy` and `SUBN Vx,Vy` (R127, R129): the difference modulo 256 and not-borrow, from the old values; with
`x = 0xF` the flag stands (R119, log entry 16); `SUBN`'s operand order is log entry 38. -/
def Obligations.SubtractWritesDifferenceThenNotBorrow : Prop :=
  ∀ (x y : Reg) (s : State), ∃ t u,
    exec (.subReg x y) s = .next t ∧
    (x ≠ 0xF#4 → (t.getV x).toNat = ((s.getV x).toNat + 256 - (s.getV y).toNat) % 256) ∧
    (t.getV 0xF#4).toNat = (if (s.getV y).toNat > (s.getV x).toNat then 0 else 1) ∧
    RegsKept [x, 0xF#4] s t ∧ t.pc = s.pc + 2 ∧ Frame [.regs, .pc] s t ∧
    exec (.subnReg x y) s = .next u ∧
    (x ≠ 0xF#4 → (u.getV x).toNat = ((s.getV y).toNat + 256 - (s.getV x).toNat) % 256) ∧
    (u.getV 0xF#4).toNat = (if (s.getV x).toNat > (s.getV y).toNat then 0 else 1) ∧
    RegsKept [x, 0xF#4] s u ∧ u.pc = s.pc + 2 ∧ Frame [.regs, .pc] s u

/-- `SHR Vx` and `SHL Vx` (R128, R130): one place in `V[x]` (log entry 15), the bit shifted out to `VF`, which stands with
`x = 0xF` (log entry 16). -/
def Obligations.ShiftsPutOutOneBit : Prop :=
  ∀ (x : Reg) (s : State), ∃ t u,
    exec (.shr x) s = .next t ∧ (x ≠ 0xF#4 → (t.getV x).toNat = (s.getV x).toNat / 2) ∧
    (t.getV 0xF#4).toNat = (s.getV x).toNat % 2 ∧ RegsKept [x, 0xF#4] s t ∧ t.pc = s.pc + 2 ∧ Frame [.regs, .pc] s t ∧
    exec (.shl x) s = .next u ∧ (x ≠ 0xF#4 → (u.getV x).toNat = (s.getV x).toNat * 2 % 256) ∧
    (u.getV 0xF#4).toNat = (s.getV x).toNat / 128 ∧ RegsKept [x, 0xF#4] s u ∧ u.pc = s.pc + 2 ∧ Frame [.regs, .pc] s u

/-- `RND Vx,nn` (R131): a byte that is 0 wherever `nn` is; the random byte itself is free, and one is taken (log entry
7). The clause on `rnd` names the free value; nothing is claimed of it. -/
def Obligations.RandomByteIsMasked : Prop :=
  ∀ (x : Reg) (nn : Byte) (s : State), ∃ t rnd, exec (.rnd x nn) s = .next t ∧
    rnd = Config.randomByte s.draws ∧ (∀ k, (t.getV x).getLsbD k = (rnd.getLsbD k && nn.getLsbD k)) ∧
    RegsKept [x] s t ∧ t.draws = s.draws + 1 ∧ t.pc = s.pc + 2 ∧ Frame [.regs, .pc, .draws] s t

/-! ### Index register and memory (43_index_memory.md) -/

/-- `LD I,nnn` and `LD F,Vx` (R140, R142), their encodings included (the opcode numbers are log entry 32): the glyph
address is five times the low nibble, whatever memory holds. -/
def Obligations.IndexLoads : Prop :=
  (∀ w : Word, w &&& 0xF000 = 0xA000 → decodeWord w = some (.ldI (w.extractLsb' 0 12))) ∧
  (∀ w : Word, w &&& 0xF0FF = 0xF029 → decodeWord w = some (.ldF (w.extractLsb' 8 4))) ∧
  ∀ (nnn : Addr12) (x : Reg) (s : State), ∃ t u,
    exec (.ldI nnn) s = .next t ∧ t.i.toNat = nnn.toNat ∧ t.pc = s.pc + 2 ∧ Frame [.i, .pc] s t ∧
    exec (.ldF x) s = .next u ∧ u.i.toNat = (s.getV x).toNat % 16 * 5 ∧ u.pc = s.pc + 2 ∧ Frame [.i, .pc] s u

/-- `ADD I,Vx` (R141): modulo 65536, no flag (log entry 21). -/
def Obligations.IndexAddWrapsAtSixteenBits : Prop :=
  ∀ (x : Reg) (s : State), ∃ t, exec (.addI x) s = .next t ∧
    t.i.toNat = (s.i.toNat + (s.getV x).toNat) % 65536 ∧ t.pc = s.pc + 2 ∧ Frame [.i, .pc] s t

/-- `LD B,Vx` (R143): three digits at `I`, `I + 1`, `I + 2`, each below 10, that make the value, and no other byte; where
one of the three addresses is above 4095, a fault (log entry 9 for its address; `I` kept, log entry 22). -/
def Obligations.DecimalStoreWritesThreeDigits : Prop :=
  ∀ (x : Reg) (s : State),
    (s.i.toNat + 2 ≤ 4095 → ∃ t, exec (.ldB x) s = .next t ∧
      (let a := effAddr s.i 0
       let h := (t.mem.read a).toNat
       let d := (t.mem.read (a + 1)).toNat
       let u := (t.mem.read (a + 2)).toNat
       h < 10 ∧ d < 10 ∧ u < 10 ∧ h * 100 + d * 10 + u = (s.getV x).toNat ∧ BytesKept a 3 s t) ∧
      t.pc = s.pc + 2 ∧ Frame [.mem, .pc] s t) ∧
    (s.i.toNat + 2 > 4095 → exec (.ldB x) s = .fault (.memoryOutOfBounds (max s.i.toNat 4096)))

/-- `LD [I],Vx` (R144): `V[0]` to `V[x]` from `I` up and no other byte, or, where one of them would lie above 4095, a fault
and none (log entry 9 for its address; `I` kept, log entry 22). -/
def Obligations.RegisterDumpStoresInOrder : Prop :=
  ∀ (x : Reg) (s : State),
    (s.i.toNat + x.toNat ≤ 4095 → ∃ t, exec (.dumpRegs x) s = .next t ∧
      (∀ r : Reg, r.toNat ≤ x.toNat → t.mem.read (effAddr s.i r.toNat) = s.getV r) ∧
      BytesKept (effAddr s.i 0) (x.toNat + 1) s t ∧ t.pc = s.pc + 2 ∧ Frame [.mem, .pc] s t) ∧
    (s.i.toNat + x.toNat > 4095 → exec (.dumpRegs x) s = .fault (.memoryOutOfBounds (max s.i.toNat 4096)))

/-- `LD Vx,[I]` (R145): the bytes from `I` up into `V[0]` to `V[x]` and no other register, or a fault and none (log entry 9
for its address; `I` kept, log entry 22). -/
def Obligations.RegisterLoadFillsInOrder : Prop :=
  ∀ (x : Reg) (s : State),
    (s.i.toNat + x.toNat ≤ 4095 → ∃ t, exec (.loadRegs x) s = .next t ∧
      (∀ r : Reg, r.toNat ≤ x.toNat → t.getV r = s.mem.read (effAddr s.i r.toNat)) ∧
      (∀ r : Reg, x.toNat < r.toNat → t.getV r = s.getV r) ∧ t.pc = s.pc + 2 ∧ Frame [.regs, .pc] s t) ∧
    (s.i.toNat + x.toNat > 4095 → exec (.loadRegs x) s = .fault (.memoryOutOfBounds (max s.i.toNat 4096)))

/-! ### Display (44_display.md) -/

/-- `CLS` (R150), its encoding included (bits 11:8 ignored by log entry 12): every cell 0, `DIRTY` set, `VF` not written. -/
def Obligations.ClearScreenBlanksEveryCell : Prop :=
  (∀ w : Word, w &&& 0xF0FF = 0x00E0 → decodeWord w = some .cls) ∧
  ∀ s : State, ∃ t, exec .cls s = .next t ∧ (∀ k, k < 2048 → t.disp.cell k = false) ∧ t.dirty = true ∧
    t.pc = s.pc + 2 ∧ Frame [.disp, .dirty, .pc] s t

/-- `DRW Vx,Vy,n` (R151): every cell of the grid is XORed with the sprite's bit on it, the sprite at the old `V[x]`, `V[y]`,
nothing wrapping (log entry 18); `VF` is 1 exactly when a set cell meets a 1 bit and else 0 (log entries 16, 17); `DIRTY`
is set; `I` is kept (log entry 22). Where a row would lie above 4095, a fault (log entries 9, 19). -/
def Obligations.DrawXorsTheSprite : Prop :=
  ∀ (x y : Reg) (n : BitVec 4) (s : State),
    let rows := (List.range n.toNat).map fun r => s.mem.read (effAddr s.i r)
    let bit := spritePixel (s.getV x).toNat (s.getV y).toNat rows
    (n.toNat = 0 ∨ s.i.toNat + n.toNat - 1 ≤ 4095 → ∃ t, exec (.drw x y n) s = .next t ∧
      (∀ px py, px < 64 → py < 32 → t.pixel px py = (s.pixel px py ^^ bit px py)) ∧
      (t.getV 0xF#4 = 1 ↔ ∃ px py, px < 64 ∧ py < 32 ∧ bit px py = true ∧ s.pixel px py = true) ∧
      (t.getV 0xF#4 = 0 ∨ t.getV 0xF#4 = 1) ∧ RegsKept [0xF#4] s t ∧ t.dirty = true ∧ t.pc = s.pc + 2 ∧
      Frame [.regs, .disp, .dirty, .pc] s t) ∧
    (1 ≤ n.toNat → s.i.toNat + n.toNat - 1 > 4095 →
      exec (.drw x y n) s = .fault (.memoryOutOfBounds (max s.i.toNat 4096)))

/-- Drawing the same sprite twice, with its position in registers other than `VF`, restores the display exactly (R152
(2)). The second draw collides exactly when the sprite has a 1 bit on a cell of the grid that was 0 before the first: on a
cleared display that is a 1 bit on the grid, as R152 (2) says; elsewhere R152 (2) says more than R151 gives (log entry
41). -/
def Obligations.DrawTwiceRestoresTheDisplay : Prop :=
  ∀ (x y : Reg) (n : BitVec 4) (s t u : State), x ≠ 0xF#4 → y ≠ 0xF#4 → exec (.drw x y n) s = .next t →
    exec (.drw x y n) t = .next u →
    let rows := (List.range n.toNat).map fun r => s.mem.read (effAddr s.i r)
    let bit := spritePixel (s.getV x).toNat (s.getV y).toNat rows
    u.disp = s.disp ∧
    (u.getV 0xF#4 = 1 ↔ ∃ px py, px < 64 ∧ py < 32 ∧ bit px py = true ∧ s.pixel px py = false) ∧
    ((∀ k, k < 2048 → s.disp.cell k = false) →
      (u.getV 0xF#4 = 1 ↔ ∃ px py, px < 64 ∧ py < 32 ∧ bit px py = true))

/-- On a cleared display a draw never collides, and off the grid or with no row it changes no cell (R151 (a), R152 (4); log
entries 18, 19); `VF` is 0 where nothing collides (log entry 17). -/
def Obligations.DrawOffGridOrOnBlankDoesNotCollide : Prop :=
  ∀ (x y : Reg) (n : BitVec 4) (s t : State), exec (.drw x y n) s = .next t →
    ((∀ k, k < 2048 → s.disp.cell k = false) → t.getV 0xF#4 = 0) ∧
    ((s.getV x).toNat ≥ 64 ∨ (s.getV y).toNat ≥ 32 ∨ n.toNat = 0 → t.disp = s.disp ∧ t.getV 0xF#4 = 0)

/-! ### Keys and timers (45_keys_timers.md) -/

/-- `SKP Vx` and `SKNP Vx` (R160, R161): the latch of the value's low nibble (log entry 20); `SKP` clears the tested latch
exactly when it skips and the parameter says so (log entry 3), `SKNP` never. -/
def Obligations.SkipOnKeyLatch : Prop :=
  ∀ (x : Reg) (s : State), ∃ t u,
    let k := (s.getV x).toNat % 16
    exec (.skp x) s = .next t ∧ t.pc = (if s.key k then s.pc + 4 else s.pc + 2) ∧
    (∀ j, t.key j = (s.key j && !(decide (j = k) && s.params.skpClearsLatch))) ∧ Frame [.keys, .pc] s t ∧
    exec (.sknp x) s = .next u ∧ u.pc = (if s.key k then s.pc + 2 else s.pc + 4) ∧ Frame [.pc] s u

/-- `LD Vx,K` (R162): with no latch set nothing changes; else `V[x]` is the index of a set latch (log entry 33), the least
with no `KEY_PICK` given (log entry 5), and that latch is cleared exactly where the parameter says so (log entry 4). -/
def Obligations.KeyWaitRepeatsUntilALatchIsSet : Prop :=
  ∀ (x : Reg) (s : State),
    ((∀ k, k < 16 → s.key k = false) → exec (.ldVxK x) s = .next s) ∧
    ((∃ k, k < 16 ∧ s.key k = true) → ∃ t k, exec (.ldVxK x) s = .next t ∧ k < 16 ∧ s.key k = true ∧
      (t.getV x).toNat = k ∧ (s.params.keyPick = [] → ∀ j, j < k → s.key j = false) ∧
      (∀ j, t.key j = (s.key j && !(decide (j = k) && s.params.waitKeyClearsLatch))) ∧
      RegsKept [x] s t ∧ t.pc = s.pc + 2 ∧ Frame [.regs, .keys, .pc] s t)

/-- `KEY_PICK` is as free as R8 says: for every function that picks a member of each non-empty set of latches there is a
value of the parameter under which `LD Vx,K`, with a latch set, takes the latch the function picks (log entries 5, 33). -/
def Obligations.EveryKeyPickIsAParameter : Prop :=
  ∀ pick : BitVec 16 → BitVec 4, (∀ keys : BitVec 16, keys ≠ 0 → keys.getLsbD (pick keys).toNat = true) →
    ∃ table : List (BitVec 16 × BitVec 4), ∀ (x : Reg) (s : State), s.params.keyPick = table → s.keys ≠ 0 →
      ∃ t, exec (.ldVxK x) s = .next t ∧ (t.getV x).toNat = (pick s.keys).toNat

/-- `LD Vx,DT`, `LD DT,Vx`, `LD ST,Vx` (R163, R164, R165), their encodings included (the opcode numbers are log entry
32). -/
def Obligations.TimerMoves : Prop :=
  (∀ w : Word, w &&& 0xF0FF = 0xF007 → decodeWord w = some (.ldVxDt (w.extractLsb' 8 4))) ∧
  (∀ w : Word, w &&& 0xF0FF = 0xF015 → decodeWord w = some (.ldDtVx (w.extractLsb' 8 4))) ∧
  (∀ w : Word, w &&& 0xF0FF = 0xF018 → decodeWord w = some (.ldStVx (w.extractLsb' 8 4))) ∧
  ∀ (x : Reg) (s : State), ∃ t u v,
    exec (.ldVxDt x) s = .next t ∧ t.getV x = s.dt ∧ RegsKept [x] s t ∧ t.pc = s.pc + 2 ∧ Frame [.regs, .pc] s t ∧
    exec (.ldDtVx x) s = .next u ∧ u.dt = s.getV x ∧ u.pc = s.pc + 2 ∧ Frame [.dt, .pc] s u ∧
    exec (.ldStVx x) s = .next v ∧ v.st = s.getV x ∧ v.pc = s.pc + 2 ∧ Frame [.st, .pc] s v
end

