-- ==== Sys2Proof/Laws/Decode.lean ====
section
/-! SUPPORT. The fields of a word written as its parts, in the three layouts of 30_encoding.md R70, and masking a word
part by part. -/

namespace Sys2Proof

/-! ### `family ++ nnn` -/

@[simp] theorem wordFamily_nnn (f : BitVec 4) (a : Addr12) : wordFamily (f ++ a) = f := by
  unfold wordFamily
  rw [BitVec.extractLsb'_append_eq_of_le (by omega)]
  simp

@[simp] theorem wordNNN_nnn (f : BitVec 4) (a : Addr12) : wordNNN (f ++ a) = a := by
  unfold wordNNN
  rw [BitVec.extractLsb'_append_eq_of_add_le (by omega)]
  simp

/-! ### `family ++ x ++ nn` -/

@[simp] theorem wordFamily_xnn (f x : BitVec 4) (nn : Byte) : wordFamily (f ++ x ++ nn) = f := by
  unfold wordFamily
  rw [BitVec.extractLsb'_append_eq_of_le (by omega), BitVec.extractLsb'_append_eq_of_le (by omega)]
  simp

@[simp] theorem wordX_xnn (f x : BitVec 4) (nn : Byte) : wordX (f ++ x ++ nn) = x := by
  unfold wordX
  rw [BitVec.extractLsb'_append_eq_of_le (by omega), BitVec.extractLsb'_append_eq_of_add_le (by omega)]
  simp

@[simp] theorem wordNN_xnn (f x : BitVec 4) (nn : Byte) : wordNN (f ++ x ++ nn) = nn := by
  unfold wordNN
  rw [BitVec.extractLsb'_append_eq_of_add_le (by omega)]
  simp

/-- The low nibble is the low nibble of `nn`. -/
@[simp] theorem wordN_xnn (f x : BitVec 4) (nn : Byte) : wordN (f ++ x ++ nn) = nn.extractLsb' 0 4 := by
  unfold wordN
  rw [BitVec.extractLsb'_append_eq_of_add_le (by omega)]

/-! ### `family ++ x ++ y ++ n` -/

@[simp] theorem wordFamily_xyn (f x y n : BitVec 4) : wordFamily (f ++ x ++ y ++ n) = f := by
  unfold wordFamily
  rw [BitVec.extractLsb'_append_eq_of_le (by omega), BitVec.extractLsb'_append_eq_of_le (by omega),
    BitVec.extractLsb'_append_eq_of_le (by omega)]
  simp

@[simp] theorem wordX_xyn (f x y n : BitVec 4) : wordX (f ++ x ++ y ++ n) = x := by
  unfold wordX
  rw [BitVec.extractLsb'_append_eq_of_le (by omega), BitVec.extractLsb'_append_eq_of_le (by omega),
    BitVec.extractLsb'_append_eq_of_add_le (by omega)]
  simp

@[simp] theorem wordY_xyn (f x y n : BitVec 4) : wordY (f ++ x ++ y ++ n) = y := by
  unfold wordY
  rw [BitVec.extractLsb'_append_eq_of_le (by omega), BitVec.extractLsb'_append_eq_of_add_le (by omega)]
  simp

@[simp] theorem wordN_xyn (f x y n : BitVec 4) : wordN (f ++ x ++ y ++ n) = n := by
  unfold wordN
  rw [BitVec.extractLsb'_append_eq_of_add_le (by omega)]
  simp

/-! ### Bytes of a word -/

/-- A word laid out high byte first is read back (20_memory.md R51). -/
@[simp] theorem wordOfBytes_bytes (w : Word) : wordOfBytes (highByte w) (lowByte w) = w := by
  unfold wordOfBytes highByte lowByte
  exact BitVec.extractLsb'_append_extractLsb'_eq_extractLsb' (by omega) |>.trans (by simp)

/-! ### Masks -/

theorem mask_nnn (f p : BitVec 4) (a q : Addr12) : (f ++ a) &&& (p ++ q) = (f &&& p) ++ (a &&& q) :=
  BitVec.and_append

theorem mask_xnn (f x p q : BitVec 4) (nn r : Byte) :
    (f ++ x ++ nn) &&& (p ++ q ++ r) = (f &&& p) ++ (x &&& q) ++ (nn &&& r) := by
  rw [BitVec.and_append, BitVec.and_append]

theorem mask_xyn (f x y n p q r t : BitVec 4) :
    (f ++ x ++ y ++ n) &&& (p ++ q ++ r ++ t) = (f &&& p) ++ (x &&& q) ++ (y &&& r) ++ (n &&& t) := by
  rw [BitVec.and_append, BitVec.and_append, BitVec.and_append]

end Sys2Proof
end

