-- ==== Sys2Proof/Laws/State.lean ====
section
/-! SUPPORT. One lemma per field per update of the state, so that no proof unfolds a record update. -/

namespace Sys2Proof

@[simp] theorem memSize_eq : memSize = 4096 := rfl
@[simp] theorem progBase_eq : progBase = 0x200 := rfl
@[simp] theorem progMax_eq : progMax = 3584 := rfl
@[simp] theorem stackDepth_eq : stackDepth = 16 := rfl
@[simp] theorem dispWidth_eq : dispWidth = 64 := rfl
@[simp] theorem dispHeight_eq : dispHeight = 32 := rfl
@[simp] theorem numKeys_eq : numKeys = 16 := rfl

end Sys2Proof

namespace Sys2Proof.Machine

variable (s : State)

/-! `setRegs` -/

@[simp] theorem setRegs_v (a : Vector Byte 16) : (s.setRegs a).v = a := rfl
@[simp] theorem setRegs_i (a : Vector Byte 16) : (s.setRegs a).i = s.i := rfl
@[simp] theorem setRegs_pc (a : Vector Byte 16) : (s.setRegs a).pc = s.pc := rfl
@[simp] theorem setRegs_stack (a : Vector Byte 16) : (s.setRegs a).stack = s.stack := rfl
@[simp] theorem setRegs_sp (a : Vector Byte 16) : (s.setRegs a).sp = s.sp := rfl
@[simp] theorem setRegs_dt (a : Vector Byte 16) : (s.setRegs a).dt = s.dt := rfl
@[simp] theorem setRegs_st (a : Vector Byte 16) : (s.setRegs a).st = s.st := rfl
@[simp] theorem setRegs_disp (a : Vector Byte 16) : (s.setRegs a).disp = s.disp := rfl
@[simp] theorem setRegs_dirty (a : Vector Byte 16) : (s.setRegs a).dirty = s.dirty := rfl
@[simp] theorem setRegs_keys (a : Vector Byte 16) : (s.setRegs a).keys = s.keys := rfl
@[simp] theorem setRegs_mem (a : Vector Byte 16) : (s.setRegs a).mem = s.mem := rfl
@[simp] theorem setRegs_params (a : Vector Byte 16) : (s.setRegs a).params = s.params := rfl
@[simp] theorem setRegs_draws (a : Vector Byte 16) : (s.setRegs a).draws = s.draws := rfl
@[simp] theorem setRegs_key (a : Vector Byte 16) (k : Nat) : (s.setRegs a).key k = s.key k := rfl

/-! `setI` -/

@[simp] theorem setI_v (a : Word) : (s.setI a).v = s.v := rfl
@[simp] theorem setI_i (a : Word) : (s.setI a).i = a := rfl
@[simp] theorem setI_pc (a : Word) : (s.setI a).pc = s.pc := rfl
@[simp] theorem setI_stack (a : Word) : (s.setI a).stack = s.stack := rfl
@[simp] theorem setI_sp (a : Word) : (s.setI a).sp = s.sp := rfl
@[simp] theorem setI_dt (a : Word) : (s.setI a).dt = s.dt := rfl
@[simp] theorem setI_st (a : Word) : (s.setI a).st = s.st := rfl
@[simp] theorem setI_disp (a : Word) : (s.setI a).disp = s.disp := rfl
@[simp] theorem setI_dirty (a : Word) : (s.setI a).dirty = s.dirty := rfl
@[simp] theorem setI_keys (a : Word) : (s.setI a).keys = s.keys := rfl
@[simp] theorem setI_mem (a : Word) : (s.setI a).mem = s.mem := rfl
@[simp] theorem setI_params (a : Word) : (s.setI a).params = s.params := rfl
@[simp] theorem setI_draws (a : Word) : (s.setI a).draws = s.draws := rfl
@[simp] theorem setI_getV (a : Word) (r : Reg) : (s.setI a).getV r = s.getV r := rfl
@[simp] theorem setI_regsUpTo (a : Word) (r : Reg) : (s.setI a).regsUpTo r = s.regsUpTo r := rfl
@[simp] theorem setI_key (a : Word) (k : Nat) : (s.setI a).key k = s.key k := rfl

/-! `setPc` -/

@[simp] theorem setPc_v (a : Word) : (s.setPc a).v = s.v := rfl
@[simp] theorem setPc_i (a : Word) : (s.setPc a).i = s.i := rfl
@[simp] theorem setPc_pc (a : Word) : (s.setPc a).pc = a := rfl
@[simp] theorem setPc_stack (a : Word) : (s.setPc a).stack = s.stack := rfl
@[simp] theorem setPc_sp (a : Word) : (s.setPc a).sp = s.sp := rfl
@[simp] theorem setPc_dt (a : Word) : (s.setPc a).dt = s.dt := rfl
@[simp] theorem setPc_st (a : Word) : (s.setPc a).st = s.st := rfl
@[simp] theorem setPc_disp (a : Word) : (s.setPc a).disp = s.disp := rfl
@[simp] theorem setPc_dirty (a : Word) : (s.setPc a).dirty = s.dirty := rfl
@[simp] theorem setPc_keys (a : Word) : (s.setPc a).keys = s.keys := rfl
@[simp] theorem setPc_mem (a : Word) : (s.setPc a).mem = s.mem := rfl
@[simp] theorem setPc_params (a : Word) : (s.setPc a).params = s.params := rfl
@[simp] theorem setPc_draws (a : Word) : (s.setPc a).draws = s.draws := rfl
@[simp] theorem setPc_getV (a : Word) (r : Reg) : (s.setPc a).getV r = s.getV r := rfl
@[simp] theorem setPc_regsUpTo (a : Word) (r : Reg) : (s.setPc a).regsUpTo r = s.regsUpTo r := rfl
@[simp] theorem setPc_key (a : Word) (k : Nat) : (s.setPc a).key k = s.key k := rfl

/-! `setStack` -/

@[simp] theorem setStack_v (a : Vector Word 16) : (s.setStack a).v = s.v := rfl
@[simp] theorem setStack_i (a : Vector Word 16) : (s.setStack a).i = s.i := rfl
@[simp] theorem setStack_pc (a : Vector Word 16) : (s.setStack a).pc = s.pc := rfl
@[simp] theorem setStack_stack (a : Vector Word 16) : (s.setStack a).stack = a := rfl
@[simp] theorem setStack_sp (a : Vector Word 16) : (s.setStack a).sp = s.sp := rfl
@[simp] theorem setStack_dt (a : Vector Word 16) : (s.setStack a).dt = s.dt := rfl
@[simp] theorem setStack_st (a : Vector Word 16) : (s.setStack a).st = s.st := rfl
@[simp] theorem setStack_disp (a : Vector Word 16) : (s.setStack a).disp = s.disp := rfl
@[simp] theorem setStack_dirty (a : Vector Word 16) : (s.setStack a).dirty = s.dirty := rfl
@[simp] theorem setStack_keys (a : Vector Word 16) : (s.setStack a).keys = s.keys := rfl
@[simp] theorem setStack_mem (a : Vector Word 16) : (s.setStack a).mem = s.mem := rfl
@[simp] theorem setStack_params (a : Vector Word 16) : (s.setStack a).params = s.params := rfl
@[simp] theorem setStack_draws (a : Vector Word 16) : (s.setStack a).draws = s.draws := rfl
@[simp] theorem setStack_getV (a : Vector Word 16) (r : Reg) : (s.setStack a).getV r = s.getV r := rfl
@[simp] theorem setStack_regsUpTo (a : Vector Word 16) (r : Reg) : (s.setStack a).regsUpTo r = s.regsUpTo r := rfl
@[simp] theorem setStack_key (a : Vector Word 16) (k : Nat) : (s.setStack a).key k = s.key k := rfl

/-! `setSp` -/

@[simp] theorem setSp_v (a : Fin 17) : (s.setSp a).v = s.v := rfl
@[simp] theorem setSp_i (a : Fin 17) : (s.setSp a).i = s.i := rfl
@[simp] theorem setSp_pc (a : Fin 17) : (s.setSp a).pc = s.pc := rfl
@[simp] theorem setSp_stack (a : Fin 17) : (s.setSp a).stack = s.stack := rfl
@[simp] theorem setSp_sp (a : Fin 17) : (s.setSp a).sp = a := rfl
@[simp] theorem setSp_dt (a : Fin 17) : (s.setSp a).dt = s.dt := rfl
@[simp] theorem setSp_st (a : Fin 17) : (s.setSp a).st = s.st := rfl
@[simp] theorem setSp_disp (a : Fin 17) : (s.setSp a).disp = s.disp := rfl
@[simp] theorem setSp_dirty (a : Fin 17) : (s.setSp a).dirty = s.dirty := rfl
@[simp] theorem setSp_keys (a : Fin 17) : (s.setSp a).keys = s.keys := rfl
@[simp] theorem setSp_mem (a : Fin 17) : (s.setSp a).mem = s.mem := rfl
@[simp] theorem setSp_params (a : Fin 17) : (s.setSp a).params = s.params := rfl
@[simp] theorem setSp_draws (a : Fin 17) : (s.setSp a).draws = s.draws := rfl
@[simp] theorem setSp_getV (a : Fin 17) (r : Reg) : (s.setSp a).getV r = s.getV r := rfl
@[simp] theorem setSp_regsUpTo (a : Fin 17) (r : Reg) : (s.setSp a).regsUpTo r = s.regsUpTo r := rfl
@[simp] theorem setSp_key (a : Fin 17) (k : Nat) : (s.setSp a).key k = s.key k := rfl

/-! `setDt` -/

@[simp] theorem setDt_v (a : Byte) : (s.setDt a).v = s.v := rfl
@[simp] theorem setDt_i (a : Byte) : (s.setDt a).i = s.i := rfl
@[simp] theorem setDt_pc (a : Byte) : (s.setDt a).pc = s.pc := rfl
@[simp] theorem setDt_stack (a : Byte) : (s.setDt a).stack = s.stack := rfl
@[simp] theorem setDt_sp (a : Byte) : (s.setDt a).sp = s.sp := rfl
@[simp] theorem setDt_dt (a : Byte) : (s.setDt a).dt = a := rfl
@[simp] theorem setDt_st (a : Byte) : (s.setDt a).st = s.st := rfl
@[simp] theorem setDt_disp (a : Byte) : (s.setDt a).disp = s.disp := rfl
@[simp] theorem setDt_dirty (a : Byte) : (s.setDt a).dirty = s.dirty := rfl
@[simp] theorem setDt_keys (a : Byte) : (s.setDt a).keys = s.keys := rfl
@[simp] theorem setDt_mem (a : Byte) : (s.setDt a).mem = s.mem := rfl
@[simp] theorem setDt_params (a : Byte) : (s.setDt a).params = s.params := rfl
@[simp] theorem setDt_draws (a : Byte) : (s.setDt a).draws = s.draws := rfl
@[simp] theorem setDt_getV (a : Byte) (r : Reg) : (s.setDt a).getV r = s.getV r := rfl
@[simp] theorem setDt_regsUpTo (a : Byte) (r : Reg) : (s.setDt a).regsUpTo r = s.regsUpTo r := rfl
@[simp] theorem setDt_key (a : Byte) (k : Nat) : (s.setDt a).key k = s.key k := rfl

/-! `setSt` -/

@[simp] theorem setSt_v (a : Byte) : (s.setSt a).v = s.v := rfl
@[simp] theorem setSt_i (a : Byte) : (s.setSt a).i = s.i := rfl
@[simp] theorem setSt_pc (a : Byte) : (s.setSt a).pc = s.pc := rfl
@[simp] theorem setSt_stack (a : Byte) : (s.setSt a).stack = s.stack := rfl
@[simp] theorem setSt_sp (a : Byte) : (s.setSt a).sp = s.sp := rfl
@[simp] theorem setSt_dt (a : Byte) : (s.setSt a).dt = s.dt := rfl
@[simp] theorem setSt_st (a : Byte) : (s.setSt a).st = a := rfl
@[simp] theorem setSt_disp (a : Byte) : (s.setSt a).disp = s.disp := rfl
@[simp] theorem setSt_dirty (a : Byte) : (s.setSt a).dirty = s.dirty := rfl
@[simp] theorem setSt_keys (a : Byte) : (s.setSt a).keys = s.keys := rfl
@[simp] theorem setSt_mem (a : Byte) : (s.setSt a).mem = s.mem := rfl
@[simp] theorem setSt_params (a : Byte) : (s.setSt a).params = s.params := rfl
@[simp] theorem setSt_draws (a : Byte) : (s.setSt a).draws = s.draws := rfl
@[simp] theorem setSt_getV (a : Byte) (r : Reg) : (s.setSt a).getV r = s.getV r := rfl
@[simp] theorem setSt_regsUpTo (a : Byte) (r : Reg) : (s.setSt a).regsUpTo r = s.regsUpTo r := rfl
@[simp] theorem setSt_key (a : Byte) (k : Nat) : (s.setSt a).key k = s.key k := rfl

/-! `setDisp` -/

@[simp] theorem setDisp_v (a : Display) : (s.setDisp a).v = s.v := rfl
@[simp] theorem setDisp_i (a : Display) : (s.setDisp a).i = s.i := rfl
@[simp] theorem setDisp_pc (a : Display) : (s.setDisp a).pc = s.pc := rfl
@[simp] theorem setDisp_stack (a : Display) : (s.setDisp a).stack = s.stack := rfl
@[simp] theorem setDisp_sp (a : Display) : (s.setDisp a).sp = s.sp := rfl
@[simp] theorem setDisp_dt (a : Display) : (s.setDisp a).dt = s.dt := rfl
@[simp] theorem setDisp_st (a : Display) : (s.setDisp a).st = s.st := rfl
@[simp] theorem setDisp_disp (a : Display) : (s.setDisp a).disp = a := rfl
@[simp] theorem setDisp_dirty (a : Display) : (s.setDisp a).dirty = s.dirty := rfl
@[simp] theorem setDisp_keys (a : Display) : (s.setDisp a).keys = s.keys := rfl
@[simp] theorem setDisp_mem (a : Display) : (s.setDisp a).mem = s.mem := rfl
@[simp] theorem setDisp_params (a : Display) : (s.setDisp a).params = s.params := rfl
@[simp] theorem setDisp_draws (a : Display) : (s.setDisp a).draws = s.draws := rfl
@[simp] theorem setDisp_getV (a : Display) (r : Reg) : (s.setDisp a).getV r = s.getV r := rfl
@[simp] theorem setDisp_regsUpTo (a : Display) (r : Reg) : (s.setDisp a).regsUpTo r = s.regsUpTo r := rfl
@[simp] theorem setDisp_key (a : Display) (k : Nat) : (s.setDisp a).key k = s.key k := rfl

/-! `setDirty` -/

@[simp] theorem setDirty_v (a : Bool) : (s.setDirty a).v = s.v := rfl
@[simp] theorem setDirty_i (a : Bool) : (s.setDirty a).i = s.i := rfl
@[simp] theorem setDirty_pc (a : Bool) : (s.setDirty a).pc = s.pc := rfl
@[simp] theorem setDirty_stack (a : Bool) : (s.setDirty a).stack = s.stack := rfl
@[simp] theorem setDirty_sp (a : Bool) : (s.setDirty a).sp = s.sp := rfl
@[simp] theorem setDirty_dt (a : Bool) : (s.setDirty a).dt = s.dt := rfl
@[simp] theorem setDirty_st (a : Bool) : (s.setDirty a).st = s.st := rfl
@[simp] theorem setDirty_disp (a : Bool) : (s.setDirty a).disp = s.disp := rfl
@[simp] theorem setDirty_dirty (a : Bool) : (s.setDirty a).dirty = a := rfl
@[simp] theorem setDirty_keys (a : Bool) : (s.setDirty a).keys = s.keys := rfl
@[simp] theorem setDirty_mem (a : Bool) : (s.setDirty a).mem = s.mem := rfl
@[simp] theorem setDirty_params (a : Bool) : (s.setDirty a).params = s.params := rfl
@[simp] theorem setDirty_draws (a : Bool) : (s.setDirty a).draws = s.draws := rfl
@[simp] theorem setDirty_getV (a : Bool) (r : Reg) : (s.setDirty a).getV r = s.getV r := rfl
@[simp] theorem setDirty_regsUpTo (a : Bool) (r : Reg) : (s.setDirty a).regsUpTo r = s.regsUpTo r := rfl
@[simp] theorem setDirty_key (a : Bool) (k : Nat) : (s.setDirty a).key k = s.key k := rfl

/-! `setKeys` -/

@[simp] theorem setKeys_v (a : BitVec 16) : (s.setKeys a).v = s.v := rfl
@[simp] theorem setKeys_i (a : BitVec 16) : (s.setKeys a).i = s.i := rfl
@[simp] theorem setKeys_pc (a : BitVec 16) : (s.setKeys a).pc = s.pc := rfl
@[simp] theorem setKeys_stack (a : BitVec 16) : (s.setKeys a).stack = s.stack := rfl
@[simp] theorem setKeys_sp (a : BitVec 16) : (s.setKeys a).sp = s.sp := rfl
@[simp] theorem setKeys_dt (a : BitVec 16) : (s.setKeys a).dt = s.dt := rfl
@[simp] theorem setKeys_st (a : BitVec 16) : (s.setKeys a).st = s.st := rfl
@[simp] theorem setKeys_disp (a : BitVec 16) : (s.setKeys a).disp = s.disp := rfl
@[simp] theorem setKeys_dirty (a : BitVec 16) : (s.setKeys a).dirty = s.dirty := rfl
@[simp] theorem setKeys_keys (a : BitVec 16) : (s.setKeys a).keys = a := rfl
@[simp] theorem setKeys_mem (a : BitVec 16) : (s.setKeys a).mem = s.mem := rfl
@[simp] theorem setKeys_params (a : BitVec 16) : (s.setKeys a).params = s.params := rfl
@[simp] theorem setKeys_draws (a : BitVec 16) : (s.setKeys a).draws = s.draws := rfl
@[simp] theorem setKeys_getV (a : BitVec 16) (r : Reg) : (s.setKeys a).getV r = s.getV r := rfl
@[simp] theorem setKeys_regsUpTo (a : BitVec 16) (r : Reg) : (s.setKeys a).regsUpTo r = s.regsUpTo r := rfl

/-! `setMem` -/

@[simp] theorem setMem_v (a : Memory) : (s.setMem a).v = s.v := rfl
@[simp] theorem setMem_i (a : Memory) : (s.setMem a).i = s.i := rfl
@[simp] theorem setMem_pc (a : Memory) : (s.setMem a).pc = s.pc := rfl
@[simp] theorem setMem_stack (a : Memory) : (s.setMem a).stack = s.stack := rfl
@[simp] theorem setMem_sp (a : Memory) : (s.setMem a).sp = s.sp := rfl
@[simp] theorem setMem_dt (a : Memory) : (s.setMem a).dt = s.dt := rfl
@[simp] theorem setMem_st (a : Memory) : (s.setMem a).st = s.st := rfl
@[simp] theorem setMem_disp (a : Memory) : (s.setMem a).disp = s.disp := rfl
@[simp] theorem setMem_dirty (a : Memory) : (s.setMem a).dirty = s.dirty := rfl
@[simp] theorem setMem_keys (a : Memory) : (s.setMem a).keys = s.keys := rfl
@[simp] theorem setMem_mem (a : Memory) : (s.setMem a).mem = a := rfl
@[simp] theorem setMem_params (a : Memory) : (s.setMem a).params = s.params := rfl
@[simp] theorem setMem_draws (a : Memory) : (s.setMem a).draws = s.draws := rfl
@[simp] theorem setMem_getV (a : Memory) (r : Reg) : (s.setMem a).getV r = s.getV r := rfl
@[simp] theorem setMem_regsUpTo (a : Memory) (r : Reg) : (s.setMem a).regsUpTo r = s.regsUpTo r := rfl
@[simp] theorem setMem_key (a : Memory) (k : Nat) : (s.setMem a).key k = s.key k := rfl

/-! `setDraws` -/

@[simp] theorem setDraws_v (a : Nat) : (s.setDraws a).v = s.v := rfl
@[simp] theorem setDraws_i (a : Nat) : (s.setDraws a).i = s.i := rfl
@[simp] theorem setDraws_pc (a : Nat) : (s.setDraws a).pc = s.pc := rfl
@[simp] theorem setDraws_stack (a : Nat) : (s.setDraws a).stack = s.stack := rfl
@[simp] theorem setDraws_sp (a : Nat) : (s.setDraws a).sp = s.sp := rfl
@[simp] theorem setDraws_dt (a : Nat) : (s.setDraws a).dt = s.dt := rfl
@[simp] theorem setDraws_st (a : Nat) : (s.setDraws a).st = s.st := rfl
@[simp] theorem setDraws_disp (a : Nat) : (s.setDraws a).disp = s.disp := rfl
@[simp] theorem setDraws_dirty (a : Nat) : (s.setDraws a).dirty = s.dirty := rfl
@[simp] theorem setDraws_keys (a : Nat) : (s.setDraws a).keys = s.keys := rfl
@[simp] theorem setDraws_mem (a : Nat) : (s.setDraws a).mem = s.mem := rfl
@[simp] theorem setDraws_params (a : Nat) : (s.setDraws a).params = s.params := rfl
@[simp] theorem setDraws_draws (a : Nat) : (s.setDraws a).draws = a := rfl
@[simp] theorem setDraws_getV (a : Nat) (r : Reg) : (s.setDraws a).getV r = s.getV r := rfl
@[simp] theorem setDraws_regsUpTo (a : Nat) (r : Reg) : (s.setDraws a).regsUpTo r = s.regsUpTo r := rfl
@[simp] theorem setDraws_key (a : Nat) (k : Nat) : (s.setDraws a).key k = s.key k := rfl

/-! `setV` and the flag -/

@[simp] theorem setV_i (x : Reg) (a : Byte) : (s.setV x a).i = s.i := rfl
@[simp] theorem setV_pc (x : Reg) (a : Byte) : (s.setV x a).pc = s.pc := rfl
@[simp] theorem setV_stack (x : Reg) (a : Byte) : (s.setV x a).stack = s.stack := rfl
@[simp] theorem setV_sp (x : Reg) (a : Byte) : (s.setV x a).sp = s.sp := rfl
@[simp] theorem setV_dt (x : Reg) (a : Byte) : (s.setV x a).dt = s.dt := rfl
@[simp] theorem setV_st (x : Reg) (a : Byte) : (s.setV x a).st = s.st := rfl
@[simp] theorem setV_disp (x : Reg) (a : Byte) : (s.setV x a).disp = s.disp := rfl
@[simp] theorem setV_dirty (x : Reg) (a : Byte) : (s.setV x a).dirty = s.dirty := rfl
@[simp] theorem setV_keys (x : Reg) (a : Byte) : (s.setV x a).keys = s.keys := rfl
@[simp] theorem setV_mem (x : Reg) (a : Byte) : (s.setV x a).mem = s.mem := rfl
@[simp] theorem setV_params (x : Reg) (a : Byte) : (s.setV x a).params = s.params := rfl
@[simp] theorem setV_draws (x : Reg) (a : Byte) : (s.setV x a).draws = s.draws := rfl
@[simp] theorem setV_key (x : Reg) (a : Byte) (k : Nat) : (s.setV x a).key k = s.key k := rfl

/-- A written register reads as written. -/
@[simp] theorem getV_setV_same (x : Reg) (a : Byte) : (s.setV x a).getV x = a := by
  simp [State.getV, State.setV]

/-- Every other register reads as before. -/
@[simp] theorem getV_setV_ne (x r : Reg) (a : Byte) (h : r ≠ x) : (s.setV x a).getV r = s.getV r := by
  have : x.toNat ≠ r.toNat := fun e => h (BitVec.eq_of_toNat_eq e.symm)
  simp [State.getV, State.setV, this]

/-- Reading any register after a write. -/
theorem getV_setV (x r : Reg) (a : Byte) : (s.setV x a).getV r = if r = x then a else s.getV r := by
  by_cases h : r = x
  · subst h; simp
  · simp [h]

/-! `advance` -/

@[simp] theorem advance_v : (s.advance).v = s.v := rfl
@[simp] theorem advance_i : (s.advance).i = s.i := rfl
@[simp] theorem advance_pc : (s.advance).pc = s.pc + 2 := rfl
@[simp] theorem advance_stack : (s.advance).stack = s.stack := rfl
@[simp] theorem advance_sp : (s.advance).sp = s.sp := rfl
@[simp] theorem advance_dt : (s.advance).dt = s.dt := rfl
@[simp] theorem advance_st : (s.advance).st = s.st := rfl
@[simp] theorem advance_disp : (s.advance).disp = s.disp := rfl
@[simp] theorem advance_dirty : (s.advance).dirty = s.dirty := rfl
@[simp] theorem advance_keys : (s.advance).keys = s.keys := rfl
@[simp] theorem advance_mem : (s.advance).mem = s.mem := rfl
@[simp] theorem advance_params : (s.advance).params = s.params := rfl
@[simp] theorem advance_draws : (s.advance).draws = s.draws := rfl
@[simp] theorem advance_getV (r : Reg) : (s.advance).getV r = s.getV r := rfl
@[simp] theorem advance_key (k : Nat) : (s.advance).key k = s.key k := rfl

/-! `skipIf` -/

@[simp] theorem skipIf_v (c : Bool) : (s.skipIf c).v = s.v := rfl
@[simp] theorem skipIf_i (c : Bool) : (s.skipIf c).i = s.i := rfl
@[simp] theorem skipIf_pc (c : Bool) : (s.skipIf c).pc = if c then s.pc + 4 else s.pc + 2 := rfl
@[simp] theorem skipIf_stack (c : Bool) : (s.skipIf c).stack = s.stack := rfl
@[simp] theorem skipIf_sp (c : Bool) : (s.skipIf c).sp = s.sp := rfl
@[simp] theorem skipIf_dt (c : Bool) : (s.skipIf c).dt = s.dt := rfl
@[simp] theorem skipIf_st (c : Bool) : (s.skipIf c).st = s.st := rfl
@[simp] theorem skipIf_disp (c : Bool) : (s.skipIf c).disp = s.disp := rfl
@[simp] theorem skipIf_dirty (c : Bool) : (s.skipIf c).dirty = s.dirty := rfl
@[simp] theorem skipIf_keys (c : Bool) : (s.skipIf c).keys = s.keys := rfl
@[simp] theorem skipIf_mem (c : Bool) : (s.skipIf c).mem = s.mem := rfl
@[simp] theorem skipIf_params (c : Bool) : (s.skipIf c).params = s.params := rfl
@[simp] theorem skipIf_draws (c : Bool) : (s.skipIf c).draws = s.draws := rfl
@[simp] theorem skipIf_getV (c : Bool) (r : Reg) : (s.skipIf c).getV r = s.getV r := rfl
@[simp] theorem skipIf_key (c : Bool) (k : Nat) : (s.skipIf c).key k = s.key k := rfl

/-! `setResultAndFlag` -/

@[simp] theorem setResultAndFlag_i (x : Reg) (a b : Byte) : (s.setResultAndFlag x a b).i = s.i := rfl
@[simp] theorem setResultAndFlag_pc (x : Reg) (a b : Byte) : (s.setResultAndFlag x a b).pc = s.pc := rfl
@[simp] theorem setResultAndFlag_stack (x : Reg) (a b : Byte) : (s.setResultAndFlag x a b).stack = s.stack := rfl
@[simp] theorem setResultAndFlag_sp (x : Reg) (a b : Byte) : (s.setResultAndFlag x a b).sp = s.sp := rfl
@[simp] theorem setResultAndFlag_dt (x : Reg) (a b : Byte) : (s.setResultAndFlag x a b).dt = s.dt := rfl
@[simp] theorem setResultAndFlag_st (x : Reg) (a b : Byte) : (s.setResultAndFlag x a b).st = s.st := rfl
@[simp] theorem setResultAndFlag_disp (x : Reg) (a b : Byte) : (s.setResultAndFlag x a b).disp = s.disp := rfl
@[simp] theorem setResultAndFlag_dirty (x : Reg) (a b : Byte) : (s.setResultAndFlag x a b).dirty = s.dirty := rfl
@[simp] theorem setResultAndFlag_keys (x : Reg) (a b : Byte) : (s.setResultAndFlag x a b).keys = s.keys := rfl
@[simp] theorem setResultAndFlag_mem (x : Reg) (a b : Byte) : (s.setResultAndFlag x a b).mem = s.mem := rfl
@[simp] theorem setResultAndFlag_params (x : Reg) (a b : Byte) : (s.setResultAndFlag x a b).params = s.params := rfl
@[simp] theorem setResultAndFlag_draws (x : Reg) (a b : Byte) : (s.setResultAndFlag x a b).draws = s.draws := rfl

/-- `VF` holds the flag, whatever the destination (R119). -/
@[simp] theorem setResultAndFlag_flag (x : Reg) (a b : Byte) : (s.setResultAndFlag x a b).getV flagReg = b := by
  simp [State.setResultAndFlag]

/-- A destination other than `VF` holds the result. -/
theorem setResultAndFlag_dest (x : Reg) (a b : Byte) (h : x ≠ flagReg) : (s.setResultAndFlag x a b).getV x = a := by
  simp [State.setResultAndFlag, h]

/-- Every register but the destination and `VF` is unchanged. -/
theorem setResultAndFlag_other (x r : Reg) (a b : Byte) (h : r ≠ x) (hf : r ≠ flagReg) :
    (s.setResultAndFlag x a b).getV r = s.getV r := by
  simp [State.setResultAndFlag, h, hf]

/-! Reset -/

@[simp] theorem reset_pc : State.reset.pc = 0x200 := rfl
@[simp] theorem reset_sp : State.reset.sp = 0 := rfl
@[simp] theorem reset_mem : State.reset.mem = [] := rfl
@[simp] theorem reset_params : State.reset.params = Params.default := rfl

end Sys2Proof.Machine
end

