-- ==== Sys2Proof/Laws/Memory.lean ====
section
/-! SUPPORT. What the memory operations do: read after write, the canonical form kept, checked accesses. -/

namespace Sys2Proof.Machine

variable (m : Memory)

theorem read_nil (a : Nat) : Memory.read [] a = Config.resetByte a := rfl

theorem read_cons (c : Host.Cell) (a : Nat) : Memory.read (c :: m) a = if c.1 = a then c.2 else Memory.read m a := rfl

/-- Dropping a cell makes its address read as the reset contents and leaves every other address. -/
theorem read_erase (a b : Nat) : (Memory.erase m a).read b = if b = a then Config.resetByte a else m.read b := by
  induction m with
  | nil => by_cases h : b = a <;> simp [Memory.erase, Memory.read, h]
  | cons c m ih =>
    have step : Memory.erase (c :: m) a = if c.1 = a then Memory.erase m a else c :: Memory.erase m a := by
      by_cases h : c.1 = a <;> simp [Memory.erase, h]
    rw [step]
    by_cases hc : c.1 = a
    · rw [if_pos hc, ih]
      by_cases hb : b = a
      · rw [if_pos hb, if_pos hb]
      · rw [if_neg hb, if_neg hb, read_cons, if_neg (by omega)]
    · rw [if_neg hc, read_cons, ih, read_cons]
      by_cases hb : b = a
      · rw [if_pos hb, if_pos hb, if_neg (by omega)]
      · rw [if_neg hb, if_neg hb]

/-- Listing a cell for an address that is not listed changes what that address reads as and nothing else. -/
theorem read_insert (a : Nat) (u : Byte) (b : Nat) (h : ∀ c ∈ m, c.1 ≠ a) :
    (Memory.insert m a u).read b = if b = a then u else m.read b := by
  induction m with
  | nil => by_cases hb : b = a <;> simp [Memory.insert, Memory.read, hb, Ne.symm]
  | cons c m ih =>
    have hc : c.1 ≠ a := h c (by simp)
    have ih' := ih fun d hd => h d (by simp [hd])
    obtain ⟨k, w⟩ := c
    simp only [Memory.insert]
    by_cases hlt : a < k
    · rw [if_pos hlt, read_cons]
      by_cases hb : b = a
      · simp [hb]
      · rw [if_neg hb, if_neg (fun e => hb e.symm)]
    · rw [if_neg hlt, read_cons, ih', read_cons]
      by_cases hb : b = a
      · rw [if_pos hb, if_pos hb, if_neg]
        exact fun e => hc (e.trans hb)
      · rw [if_neg hb, if_neg hb]

theorem erase_ne (a : Nat) : ∀ c ∈ Memory.erase m a, c.1 ≠ a := by
  intro c hc
  simpa [Memory.erase] using (List.mem_filter.mp hc).2

/-- The canonical form of a list with a first cell. -/
theorem wf_cons (a : Nat) (u : Byte) :
    Memory.wf ((a, u) :: m) = true ↔
      (a < memSize ∧ u ≠ Config.resetByte a ∧ ∀ c ∈ m, a < c.1) ∧ Memory.wf m = true := by
  simp [Memory.wf, and_assoc]

theorem wf_erase (a : Nat) (h : m.wf = true) : (Memory.erase m a).wf = true := by
  induction m with
  | nil => rfl
  | cons c m ih =>
    obtain ⟨k, w⟩ := c
    obtain ⟨⟨hk, hw, hall⟩, hm⟩ := (wf_cons m k w).mp h
    by_cases hc : k = a
    · have : Memory.erase ((k, w) :: m) a = Memory.erase m a := by simp [Memory.erase, hc]
      rw [this]; exact ih hm
    · have : Memory.erase ((k, w) :: m) a = (k, w) :: Memory.erase m a := by simp [Memory.erase, hc]
      rw [this, wf_cons]
      exact ⟨⟨hk, hw, fun d hd => hall d (List.mem_filter.mp hd).1⟩, ih hm⟩

theorem mem_insert (a : Nat) (u : Byte) (d : Host.Cell) (h : d ∈ Memory.insert m a u) : d = (a, u) ∨ d ∈ m := by
  induction m with
  | nil => simpa [Memory.insert] using h
  | cons c m ih =>
    obtain ⟨k, w⟩ := c
    simp only [Memory.insert] at h
    split at h
    · simpa using h
    · rcases List.mem_cons.mp h with h | h
      · exact .inr (by simp [h])
      · rcases ih h with h | h
        · exact .inl h
        · exact .inr (by simp [h])

theorem wf_insert (a : Nat) (u : Byte) (h : m.wf = true) (ha : a < memSize) (hu : u ≠ Config.resetByte a)
    (hne : ∀ c ∈ m, c.1 ≠ a) : (Memory.insert m a u).wf = true := by
  induction m with
  | nil => exact (wf_cons [] a u).mpr ⟨⟨ha, hu, by simp⟩, rfl⟩
  | cons c m ih =>
    obtain ⟨k, w⟩ := c
    obtain ⟨⟨hk, hw, hall⟩, hm⟩ := (wf_cons m k w).mp h
    have hka : k ≠ a := hne (k, w) (by simp)
    simp only [Memory.insert]
    split
    · rename_i hlt
      refine (wf_cons _ a u).mpr ⟨⟨ha, hu, fun d hd => ?_⟩, h⟩
      rcases List.mem_cons.mp hd with rfl | hd
      · exact hlt
      · exact Nat.lt_trans hlt (hall d hd)
    · rename_i hlt
      refine (wf_cons _ k w).mpr ⟨⟨hk, hw, fun d hd => ?_⟩, ih hm fun d hd => hne d (by simp [hd])⟩
      rcases mem_insert m a u d hd with rfl | hd
      · exact Nat.lt_of_le_of_ne (Nat.le_of_not_lt hlt) hka
      · exact hall d hd

/-- A write below 4096 keeps the canonical form. -/
theorem wf_write (a : Nat) (u : Byte) (h : m.wf = true) (ha : a < memSize) : (m.write a u).wf = true := by
  unfold Memory.write
  split
  · exact wf_erase m a h
  · rename_i hu
    exact wf_insert _ a u (wf_erase m a h) ha hu (erase_ne m a)

/-- Read after write: the cell written holds the byte, every other cell is unchanged (20_memory.md R54). -/
theorem read_write (a b : Nat) (u : Byte) : (m.write a u).read b = if b = a then u else m.read b := by
  unfold Memory.write
  split
  · rename_i hu
    rw [read_erase, hu]
  · rw [read_insert _ a u b (erase_ne m a), read_erase]
    split <;> rfl

/-- Read after writing bytes from `a` up. -/
theorem read_writeBytes (us : List Byte) : ∀ (m : Memory) (a b : Nat),
    (m.writeBytes a us).read b = if a ≤ b ∧ b < a + us.length then us.getD (b - a) 0 else m.read b := by
  induction us with
  | nil => intro m a b; simp [Memory.writeBytes]
  | cons u us ih =>
    intro m a b
    rw [Memory.writeBytes, ih, read_write]
    by_cases h1 : a + 1 ≤ b ∧ b < a + 1 + us.length
    · have h2 : b - a = (b - (a + 1)) + 1 := by omega
      rw [if_pos h1, if_pos (by simp only [List.length_cons]; omega), h2, List.getD_cons_succ]
    · rw [if_neg h1]
      by_cases h2 : b = a
      · rw [if_pos h2, if_pos (by simp only [List.length_cons]; omega), h2, Nat.sub_self, List.getD_cons_zero]
      · rw [if_neg h2, if_neg (by simp only [List.length_cons]; omega)]

@[simp] theorem readBytes_length (a n : Nat) : (m.readBytes a n).length = n := by simp [Memory.readBytes]

/-- The `k`-th byte read from `a` up is the byte at `a + k`. -/
theorem readBytes_getD (a n k : Nat) (h : k < n) : (m.readBytes a n).getD k 0 = m.read (a + k) := by
  simp [Memory.readBytes, List.getD, h]

/-- Writes of bytes that all lie below 4096 keep the canonical form. -/
theorem wf_writeBytes (us : List Byte) : ∀ (m : Memory) (a : Nat), m.wf = true → (us = [] ∨ a + us.length ≤ memSize) →
    (m.writeBytes a us).wf = true := by
  induction us with
  | nil => intro m a h _; exact h
  | cons u us ih =>
    intro m a h hb
    simp only [List.length_cons, reduceCtorEq, false_or] at hb
    refine ih (m.write a u) (a + 1) (wf_write m a u h (by omega)) ?_
    right; omega

/-! Checked accesses: what each answers, once. -/

theorem admitted_iff (a n : Nat) : admitted a n = true ↔ n = 0 ∨ a + n ≤ memSize := by
  simp [admitted]

theorem load_ok (a n : Nat) (us : List Byte) :
    m.load a n = .ok us ↔ admitted a n = true ∧ us = m.readBytes a n := by
  unfold Memory.load
  cases h : admitted a n <;> simp [eq_comm]

theorem load_error (a n : Nat) (f : Fault) :
    m.load a n = .error f ↔ admitted a n = false ∧ f = boundsFault a := by
  unfold Memory.load
  cases h : admitted a n <;> simp [eq_comm]

theorem store_ok (a : Nat) (us : List Byte) (m' : Memory) :
    m.store a us = .ok m' ↔ admitted a us.length = true ∧ m' = m.writeBytes a us := by
  unfold Memory.store
  cases h : admitted a us.length <;> simp [eq_comm]

theorem store_error (a : Nat) (us : List Byte) (f : Fault) :
    m.store a us = .error f ↔ admitted a us.length = false ∧ f = boundsFault a := by
  unfold Memory.store
  cases h : admitted a us.length <;> simp [eq_comm]

/-- A checked store keeps the canonical form. -/
theorem wf_store (a : Nat) (us : List Byte) (m' : Memory) (h : m.wf = true) (hs : m.store a us = .ok m') :
    m'.wf = true := by
  obtain ⟨hadm, rfl⟩ := (store_ok m a us m').mp hs
  refine wf_writeBytes us m a h ?_
  rcases (admitted_iff a us.length).mp hadm with h0 | h0
  · exact .inl (List.length_eq_zero_iff.mp h0)
  · exact .inr h0

theorem loadWord_ok (a : Nat) (w : Word) :
    m.loadWord a = .ok w ↔ a + 2 ≤ memSize ∧ w = wordOfBytes (m.read a) (m.read (a + 1)) := by
  unfold Memory.loadWord
  by_cases h : a + 2 ≤ memSize <;> simp [admitted, h, eq_comm]

theorem loadWord_error (a : Nat) (f : Fault) :
    m.loadWord a = .error f ↔ ¬ a + 2 ≤ memSize ∧ f = boundsFault a := by
  unfold Memory.loadWord
  by_cases h : a + 2 ≤ memSize <;> simp [admitted, h, eq_comm]

end Sys2Proof.Machine
end

