-- ==== Sys2Proof/Laws/Ops.lean ====
section
/-! SUPPORT. What the shared operations answer, once: raising, the fetch, the stack, the step. -/

namespace Sys2Proof.Machine

variable (s : State)

@[simp] theorem orRaise_ok {α : Type} (a : α) (k : α → Result) : orRaise (.ok a) k = k a := rfl
@[simp] theorem orRaise_error {α : Type} (f : Fault) (k : α → Result) : orRaise (.error f) k = .fault f := rfl

/-- A checked operation goes on exactly when it has a value and what follows goes on. -/
theorem orRaise_next {α : Type} (e : Except Fault α) (k : α → Result) (t : State) :
    orRaise e k = .next t ↔ ∃ a, e = .ok a ∧ k a = .next t := by
  cases e <;> simp [orRaise, raise]

/-- It faults exactly when its check does or what follows does. -/
theorem orRaise_fault {α : Type} (e : Except Fault α) (k : α → Result) (f : Fault) :
    orRaise e k = .fault f ↔ e = .error f ∨ ∃ a, e = .ok a ∧ k a = .fault f := by
  cases e <;> simp [orRaise, raise]

/-- `CALL`'s push succeeds exactly below 16 occupied slots. -/
theorem push_ok (a : Word) (t : State) :
    s.push a = .ok t ↔ ∃ h : s.sp.val < 16,
      t = (s.setStack (s.stack.set s.sp.val a h)).setSp ⟨s.sp.val + 1, Nat.succ_lt_succ h⟩ := by
  unfold State.push
  by_cases h : s.sp.val < stackDepth
  · simp only [h, dite_true, Except.ok.injEq, exists_true_left]
    exact eq_comm
  · simp [h]

theorem push_error (a : Word) (f : Fault) : s.push a = .error f ↔ s.sp.val = 16 ∧ f = .stackOverflow := by
  have := s.sp.isLt
  unfold State.push
  simp only [stackDepth]
  by_cases h : s.sp.val < 16
  · simp only [h, dite_true, reduceCtorEq, false_iff]
    intro ⟨e, _⟩
    omega
  · have e : s.sp.val = 16 := by omega
    simp [e, eq_comm]

/-- `RET`'s pop succeeds exactly with a slot occupied. -/
theorem pop_ok (a : Word) (t : State) :
    s.pop = .ok (a, t) ↔ s.sp.val ≠ 0 ∧ a = s.slot (s.sp.val - 1) ∧
      t = s.setSp ⟨s.sp.val - 1, by have := s.sp.isLt; omega⟩ := by
  have hlt : s.sp.val - 1 < 17 := by have := s.sp.isLt; omega
  unfold State.pop
  by_cases h : s.sp.val = 0
  · simp [h]
  · have hb : s.sp.val - 1 < 16 := by have := s.sp.isLt; omega
    simp only [h, dite_false, Except.ok.injEq, Prod.mk.injEq, ne_eq, not_false_eq_true, true_and]
    rw [State.slot, Vector.getElem?_eq_getElem hb]
    simp [eq_comm]

theorem pop_error (f : Fault) : s.pop = .error f ↔ s.sp.val = 0 ∧ f = .stackUnderflow := by
  unfold State.pop
  by_cases h : s.sp.val = 0 <;> simp [h, eq_comm]

/-- The fetch gives an instruction exactly when both bytes exist and their word decodes to it (R91, R92). -/
theorem fetch_ok (i : Instr) :
    s.fetch = .ok i ↔ s.pc.toNat + 2 ≤ memSize ∧
      decodeWord (wordOfBytes (s.mem.read s.pc.toNat) (s.mem.read (s.pc.toNat + 1))) = some i := by
  unfold State.fetch
  cases h : s.mem.loadWord s.pc.toNat with
  | error f =>
    have := ((loadWord_error _ _ _).mp h).1
    simp [this]
  | ok w =>
    obtain ⟨h1, rfl⟩ := (loadWord_ok _ _ _).mp h
    simp only [h1, true_and]
    split <;> simp_all

/-- The fetch faults exactly when the bytes do not exist or their word is unknown (R175). -/
theorem fetch_error (f : Fault) :
    s.fetch = .error f ↔
      (¬ s.pc.toNat + 2 ≤ memSize ∧ f = boundsFault s.pc.toNat) ∨
      (s.pc.toNat + 2 ≤ memSize ∧
        decodeWord (wordOfBytes (s.mem.read s.pc.toNat) (s.mem.read (s.pc.toNat + 1))) = none ∧
        f = .unknownOpcode (wordOfBytes (s.mem.read s.pc.toNat) (s.mem.read (s.pc.toNat + 1)))) := by
  unfold State.fetch
  cases h : s.mem.loadWord s.pc.toNat with
  | error g =>
    obtain ⟨h1, rfl⟩ := (loadWord_error _ _ _).mp h
    simp [h1, eq_comm]
  | ok w =>
    obtain ⟨h1, rfl⟩ := (loadWord_ok _ _ _).mp h
    simp only [h1, not_true_eq_false, false_and, true_and, false_or]
    cases decodeWord (wordOfBytes (s.mem.read s.pc.toNat) (s.mem.read (s.pc.toNat + 1))) <;> simp [eq_comm]

/-- A step goes on exactly when an instruction is fetched and its meaning goes on. -/
theorem step_next (t : State) : step s = .next t ↔ ∃ i, s.fetch = .ok i ∧ exec i s = .next t :=
  orRaise_next _ _ _

/-- A step faults exactly when the fetch does or the instruction does. -/
theorem step_fault (f : Fault) :
    step s = .fault f ↔ s.fetch = .error f ∨ ∃ i, s.fetch = .ok i ∧ exec i s = .fault f :=
  orRaise_fault _ _ _

@[simp] theorem mapNext_next (f : State → State) (t : State) : mapNext f (.next t) = .next (f t) := rfl
@[simp] theorem mapNext_fault (f : State → State) (r : Fault) : mapNext f (.fault r) = .fault r := rfl

end Sys2Proof.Machine
end

