-- ==== Sys2Proof/Laws/Display.lean ====
section
/-! SUPPORT. What the display operations do: a cell after a write, one pixel of a sprite. -/

namespace Sys2Proof.Machine

theorem putCell_getLsbD (row : BitVec 64) (col k : Nat) (b : Bool) (h : col < 64) :
    (putCell row col b).getLsbD k = if k = col then b else row.getLsbD k := by
  unfold putCell
  by_cases hk : k = col
  · subst hk
    cases b <;> simp [h]
  · have : ¬ col = k := fun e => hk e.symm
    cases b
    · by_cases h64 : k < 64
      · simp [hk, h64]
      · simp [hk, h64, BitVec.getLsbD_of_ge row k (by omega)]
    · simp [hk, this]

/-- Row after write: the row of the cell changes, every other row is unchanged. -/
theorem row_setCell (d : Display) (k y : Nat) (b : Bool) (hk : k < 2048) :
    (d.setCell k b).row y = if y = k / 64 then putCell (d.row (k / 64)) (k % 64) b else d.row y := by
  have hrow : k / 64 < 32 := by omega
  unfold Display.setCell
  by_cases hy : y = k / 64
  · subst hy
    simp [Display.row, hrow]
  · simp [Display.row, hy, Ne.symm hy]

/-- Cell after write: the cell written holds the value, every other cell is unchanged. -/
theorem cell_setCell (d : Display) (k j : Nat) (b : Bool) (hk : k < 2048) :
    (d.setCell k b).cell j = if j = k then b else d.cell j := by
  simp only [Display.cell, dispWidth]
  rw [row_setCell d k _ b hk]
  by_cases hr : j / 64 = k / 64
  · rw [if_pos hr, putCell_getLsbD _ _ _ _ (Nat.mod_lt _ (by omega)), hr]
    by_cases hc : j = k
    · rw [if_pos hc, if_pos (by rw [hc])]
    · rw [if_neg hc, if_neg (by omega)]
  · rw [if_neg hr, if_neg (fun e => hr (by rw [e]))]

/-- One pixel of a sprite: on the grid its cell is XORed, every other cell is unchanged. -/
theorem cell_drawPixel (x0 y0 r c : Nat) (bit : Bool) (acc : Display × Bool) (j : Nat) :
    (drawPixel x0 y0 r c bit acc).1.cell j =
      if (x0 + c ≤ 63 ∧ y0 + r ≤ 31) ∧ j = (y0 + r) * 64 + (x0 + c) then acc.1.cell j ^^ bit else acc.1.cell j := by
  unfold drawPixel
  by_cases h : x0 + c ≤ 63 ∧ y0 + r ≤ 31
  · simp only [h, and_self, if_true, true_and]
    rw [cell_setCell _ _ _ _ (by simp only [dispWidth]; omega)]
    by_cases hj : j = (y0 + r) * 64 + (x0 + c) <;> simp [hj]
  · simp [h]

/-- One pixel of a sprite: it collides when a 1 bit meets a 1 cell on the grid. -/
theorem collision_drawPixel (x0 y0 r c : Nat) (bit : Bool) (acc : Display × Bool) :
    (drawPixel x0 y0 r c bit acc).2 =
      (acc.2 || (decide (x0 + c ≤ 63 ∧ y0 + r ≤ 31) && bit && acc.1.cell ((y0 + r) * 64 + (x0 + c)))) := by
  unfold drawPixel
  by_cases h : x0 + c ≤ 63 ∧ y0 + r ≤ 31 <;> simp [h]

end Sys2Proof.Machine
end

