-- ==== Sys2Proof/Laws/Operations.lean ====
section
/-! SUPPORT. What the operations over several registers, latches and sprite rows do, once each. -/

namespace Sys2Proof.Machine

/-! ### Register dump and load -/

@[simp] theorem regsUpTo_length (s : State) (x : Reg) : (s.regsUpTo x).length = x.toNat + 1 := by
  have := x.isLt
  simp only [State.regsUpTo, List.length_take, Vector.length_toList]
  omega

/-- The `k`-th byte dumped is `V[k]`. -/
theorem regsUpTo_getD (s : State) (x r : Reg) (h : r.toNat ≤ x.toNat) : (s.regsUpTo x).getD r.toNat 0 = s.getV r := by
  have hr := r.isLt
  have : r.toNat < x.toNat + 1 := by omega
  simp [State.regsUpTo, State.getV, List.getD, this, Vector.getElem?_eq_getElem hr]

/-- Registers loaded from register `k` up: the `j`-th is the `j`-th byte, the others are unchanged. -/
theorem loadFrom_getElem (us : List Byte) : ∀ (v : Vector Byte 16) (k j : Nat) (h : j < 16),
    (loadFrom v k us)[j] = if k ≤ j ∧ j < k + us.length then us.getD (j - k) 0 else v[j] := by
  induction us with
  | nil => intro v k j h; simp [loadFrom]
  | cons u us ih =>
    intro v k j h
    rw [loadFrom, ih _ _ _ h, Vector.getElem_setIfInBounds h]
    by_cases h1 : k + 1 ≤ j ∧ j < k + 1 + us.length
    · have h2 : j - k = (j - (k + 1)) + 1 := by omega
      rw [if_pos h1, if_pos (by simp only [List.length_cons]; omega), h2, List.getD_cons_succ]
    · rw [if_neg h1]
      by_cases h2 : k = j
      · rw [if_pos h2, if_pos (by simp only [List.length_cons]; omega), h2, Nat.sub_self, List.getD_cons_zero]
      · rw [if_neg h2, if_neg (by simp only [List.length_cons]; omega)]

/-! ### Key latches -/

/-- A latch after a write. -/
theorem putKey_getLsbD (keys : BitVec 16) (k j : Nat) (b : Bool) (h : k < 16) :
    (putKey keys k b).getLsbD j = if j = k then b else keys.getLsbD j := by
  unfold putKey
  by_cases hj : j = k
  · subst hj
    cases b <;> simp [h]
  · have : ¬ k = j := fun e => hj e.symm
    cases b
    · by_cases h16 : j < 16
      · simp [hj, h16]
      · simp [hj, h16, BitVec.getLsbD_of_ge keys j (by omega)]
    · simp [hj, this]

/-- Where a latch is set, the least one is set and is the least. -/
theorem leastKey_spec (keys : BitVec 16) (h : keys ≠ 0) :
    keys.getLsbD (leastKey keys).toNat = true ∧ ∀ j, j < (leastKey keys).toNat → keys.getLsbD j = false := by
  cases hf : (List.range 16).find? fun k => keys.getLsbD k with
  | none =>
    refine absurd (BitVec.eq_of_getLsbD_eq fun i hi => ?_) h
    have := List.find?_eq_none.mp hf i (List.mem_range.mpr hi)
    simpa using this
  | some k =>
    have hk : keys.getLsbD k = true := by simpa using List.find?_some hf
    have hlt : k < 16 := List.mem_range.mp (List.mem_of_find?_eq_some hf)
    have he : (leastKey keys).toNat = k := by
      simp [leastKey, hf, Nat.mod_eq_of_lt hlt]
    refine ⟨by rw [he]; exact hk, fun j hj => ?_⟩
    rw [he] at hj
    obtain ⟨-, as, bs, hsplit, hnot⟩ := List.find?_eq_some_iff_append.mp hf
    have hmem : j ∈ as := by
      have hlen : as.length = k := by
        have hk' : (List.range 16)[as.length]? = some k := by rw [hsplit]; simp
        have hal : as.length < 16 := by
          have := congrArg List.length hsplit
          simp at this
          omega
        simpa [List.getElem?_range hal] using hk'
      have hj' : (List.range 16)[j]? = some j := List.getElem?_range (by omega)
      rw [hsplit, List.getElem?_append_left (by omega)] at hj'
      exact List.mem_of_getElem? hj'
    simpa using hnot j hmem

/-- The key picked is a set latch, whatever the parameters. -/
theorem pickKey_set (p : Params) (keys : BitVec 16) (h : keys ≠ 0) : keys.getLsbD (pickKey p keys).toNat = true := by
  unfold pickKey
  split
  · split
    · assumption
    · exact (leastKey_spec keys h).1
  · exact (leastKey_spec keys h).1

/-! ### Sprites -/

/-- Whether column `c` of a sprite byte drawn at (`x0`, `y`) falls on the pixel of cell `j`, and is a 1 bit there. -/
def rowHits (x0 y : Nat) (b : Byte) (j : Nat) : Bool :=
  decide (y ≤ 31 ∧ j / 64 = y ∧ x0 ≤ j % 64 ∧ j % 64 < x0 + 8) && spriteBit b (j % 64 - x0)

/-- The columns of a sprite row below `n`: each on the grid is XORed once; the collision so far is joined by every 1 bit
met by a cell that was set when the row began. -/
theorem drawColumns (x0 y0 r : Nat) (b : Byte) (acc : Display × Bool) (n : Nat) (hn : n ≤ 8) :
    let out := (List.range n).foldl (fun acc c => drawPixel x0 y0 r c (spriteBit b c) acc) acc
    (∀ j, out.1.cell j = (acc.1.cell j ^^ (rowHits x0 (y0 + r) b j && decide (j % 64 < x0 + n)))) ∧
    (out.2 = true ↔ acc.2 = true ∨ ∃ j, (rowHits x0 (y0 + r) b j && decide (j % 64 < x0 + n)) = true ∧
      acc.1.cell j = true) := by
  induction n with
  | zero =>
    have none : ∀ j, (rowHits x0 (y0 + r) b j && decide (j % 64 < x0 + 0)) = false := by
      intro j
      simp only [rowHits, Nat.add_zero, Bool.and_eq_false_iff, decide_eq_false_iff_not]
      by_cases h : j % 64 < x0
      · exact .inl (.inl (by omega))
      · exact .inr h
    simp only [none, List.range_zero, List.foldl_nil, Bool.xor_false, implies_true, true_and, Bool.false_eq_true,
      false_and, exists_false, or_false]
  | succ n ih =>
    obtain ⟨ih1, ih2⟩ := ih (by omega)
    simp only [List.range_succ, List.foldl_append, List.foldl_cons, List.foldl_nil]
    have key : ∀ j, (rowHits x0 (y0 + r) b j && decide (j % 64 < x0 + (n + 1))) =
        ((rowHits x0 (y0 + r) b j && decide (j % 64 < x0 + n)) ^^
          (decide ((x0 + n ≤ 63 ∧ y0 + r ≤ 31) ∧ j = (y0 + r) * 64 + (x0 + n)) && spriteBit b n)) := by
      intro j
      by_cases hj : (x0 + n ≤ 63 ∧ y0 + r ≤ 31) ∧ j = (y0 + r) * 64 + (x0 + n)
      · obtain ⟨⟨h1, h2⟩, hj⟩ := hj
        have e1 : j / 64 = y0 + r := by omega
        have e2 : j % 64 = x0 + n := by omega
        have e3 : x0 + n - x0 = n := by omega
        have hd : (x0 + n ≤ 63 ∧ y0 + r ≤ 31) ∧ j = (y0 + r) * 64 + (x0 + n) := ⟨⟨h1, h2⟩, hj⟩
        have h3 : n < 8 := by omega
        rw [decide_eq_true hd]
        simp [rowHits, e1, e2, e3, h2, h3]
      · rw [decide_eq_false hj]
        simp only [Bool.false_and, Bool.xor_false, rowHits]
        by_cases hlt : j % 64 < x0 + n
        · rw [decide_eq_true hlt, decide_eq_true (show j % 64 < x0 + (n + 1) by omega)]
        · rw [decide_eq_false hlt]
          by_cases heq : j % 64 = x0 + n
          · have : ¬ (y0 + r ≤ 31 ∧ j / 64 = y0 + r ∧ x0 ≤ j % 64 ∧ j % 64 < x0 + 8) := by omega
            rw [decide_eq_false this]
            simp
          · rw [decide_eq_false (show ¬ j % 64 < x0 + (n + 1) by omega)]
    constructor
    · intro j
      rw [cell_drawPixel, ih1, key j]
      by_cases hj : (x0 + n ≤ 63 ∧ y0 + r ≤ 31) ∧ j = (y0 + r) * 64 + (x0 + n)
      · rw [if_pos hj, decide_eq_true hj]
        simp
      · rw [if_neg hj, decide_eq_false hj]
        simp
    · rw [collision_drawPixel, Bool.or_eq_true, ih2, ih1]
      have off : ∀ j, j = (y0 + r) * 64 + (x0 + n) → x0 + n ≤ 63 →
          (rowHits x0 (y0 + r) b j && decide (j % 64 < x0 + n)) = false := by
        intro j hj h
        have : ¬ j % 64 < x0 + n := by omega
        rw [decide_eq_false this, Bool.and_false]
      constructor
      · rintro ((h | ⟨j, hj, hc⟩) | h)
        · exact .inl h
        · refine .inr ⟨j, ?_, hc⟩
          simp only [Bool.and_eq_true, decide_eq_true_eq] at hj ⊢
          exact ⟨hj.1, by omega⟩
        · simp only [Bool.and_eq_true, decide_eq_true_eq] at h
          obtain ⟨⟨hg, hb⟩, hc⟩ := h
          rw [off _ rfl hg.1, Bool.xor_false] at hc
          refine .inr ⟨_, ?_, hc⟩
          rw [key, off _ rfl hg.1, decide_eq_true ⟨hg, rfl⟩, hb]
          rfl
      · rintro (h | ⟨j, hj, hc⟩)
        · exact .inl (.inl h)
        · rw [key] at hj
          by_cases hd : (x0 + n ≤ 63 ∧ y0 + r ≤ 31) ∧ j = (y0 + r) * 64 + (x0 + n)
          · obtain ⟨hg, rfl⟩ := hd
            rw [off _ rfl hg.1, decide_eq_true ⟨hg, rfl⟩] at hj
            right
            rw [off _ rfl hg.1, decide_eq_true hg, Bool.xor_false, hc]
            simpa using hj
          · rw [decide_eq_false hd, Bool.false_and, Bool.xor_false] at hj
            exact .inl (.inr ⟨j, hj, hc⟩)

/-- A sprite row: its cells are XORed, and it collides where a 1 bit meets a set cell. -/
theorem drawRow_spec (x0 y0 r : Nat) (b : Byte) (acc : Display × Bool) :
    (∀ j, (drawRow x0 y0 r b acc).1.cell j = (acc.1.cell j ^^ rowHits x0 (y0 + r) b j)) ∧
    ((drawRow x0 y0 r b acc).2 = true ↔
      acc.2 = true ∨ ∃ j, rowHits x0 (y0 + r) b j = true ∧ acc.1.cell j = true) := by
  have whole : ∀ j, (rowHits x0 (y0 + r) b j && decide (j % 64 < x0 + 8)) = rowHits x0 (y0 + r) b j := by
    intro j
    by_cases h : j % 64 < x0 + 8
    · rw [decide_eq_true h, Bool.and_true]
    · have : ¬ (y0 + r ≤ 31 ∧ j / 64 = y0 + r ∧ x0 ≤ j % 64 ∧ j % 64 < x0 + 8) := by omega
      simp only [rowHits, decide_eq_false this, Bool.false_and]
  have := drawColumns x0 y0 r b acc 8 (Nat.le_refl 8)
  simp only [whole] at this
  exact this

/-- The rows of a sprite from row `r` on: the sprite's bit on cell `j` is the bit of the one row that reaches it. -/
def rowsHit (x0 y0 r : Nat) (rows : List Byte) (j : Nat) : Bool :=
  decide (y0 + r ≤ j / 64 ∧ j / 64 < y0 + r + rows.length) && rowHits x0 (j / 64) (rows.getD (j / 64 - (y0 + r)) 0) j

theorem rowsHit_nil (x0 y0 r j : Nat) : rowsHit x0 y0 r [] j = false := by
  have : ¬ (y0 + r ≤ j / 64 ∧ j / 64 < y0 + r + 0) := by omega
  simp only [rowsHit, List.length_nil, decide_eq_false this, Bool.false_and]

theorem rowsHit_cons (x0 y0 r : Nat) (b : Byte) (bs : List Byte) (j : Nat) :
    rowsHit x0 y0 r (b :: bs) j = (rowHits x0 (y0 + r) b j ^^ rowsHit x0 y0 (r + 1) bs j) ∧
    (rowHits x0 (y0 + r) b j && rowsHit x0 y0 (r + 1) bs j) = false := by
  by_cases h : j / 64 = y0 + r
  · have h1 : ¬ (y0 + (r + 1) ≤ j / 64 ∧ j / 64 < y0 + (r + 1) + bs.length) := by omega
    have h2 : y0 + r ≤ y0 + r ∧ y0 + r < y0 + r + (b :: bs).length := by simp
    have z : rowsHit x0 y0 (r + 1) bs j = false := by
      simp only [rowsHit, decide_eq_false h1, Bool.false_and]
    rw [z, Bool.xor_false, Bool.and_false]
    simp only [rowsHit, h, decide_eq_true h2, Bool.true_and, Nat.sub_self, List.getD_cons_zero, and_self]
  · have h1 : rowHits x0 (y0 + r) b j = false := by
      have : ¬ (y0 + r ≤ 31 ∧ j / 64 = y0 + r ∧ x0 ≤ j % 64 ∧ j % 64 < x0 + 8) := by omega
      simp only [rowHits, decide_eq_false this, Bool.false_and]
    rw [h1]
    simp only [Bool.false_xor, Bool.false_and, and_true, rowsHit]
    by_cases h2 : y0 + (r + 1) ≤ j / 64 ∧ j / 64 < y0 + (r + 1) + bs.length
    · have h3 : y0 + r ≤ j / 64 ∧ j / 64 < y0 + r + (b :: bs).length := by
        simp only [List.length_cons]; omega
      have h4 : j / 64 - (y0 + r) = (j / 64 - (y0 + (r + 1))) + 1 := by omega
      rw [decide_eq_true h2, decide_eq_true h3, h4, List.getD_cons_succ]
    · have h3 : ¬ (y0 + r ≤ j / 64 ∧ j / 64 < y0 + r + (b :: bs).length) := by
        simp only [List.length_cons]; omega
      rw [decide_eq_false h2, decide_eq_false h3, Bool.false_and, Bool.false_and]

/-- A whole sprite: every cell is XORed with the sprite's bit on it, and it collides where a 1 bit meets a set cell. -/
theorem drawRows_spec (x0 y0 : Nat) (rows : List Byte) : ∀ (r : Nat) (acc : Display × Bool),
    (∀ j, (drawRows x0 y0 r rows acc).1.cell j = (acc.1.cell j ^^ rowsHit x0 y0 r rows j)) ∧
    ((drawRows x0 y0 r rows acc).2 = true ↔
      acc.2 = true ∨ ∃ j, rowsHit x0 y0 r rows j = true ∧ acc.1.cell j = true) := by
  induction rows with
  | nil => intro r acc; simp [drawRows, rowsHit_nil]
  | cons b bs ih =>
    intro r acc
    obtain ⟨row1, row2⟩ := drawRow_spec x0 y0 r b acc
    obtain ⟨ih1, ih2⟩ := ih (r + 1) (drawRow x0 y0 r b acc)
    rw [drawRows]
    constructor
    · intro j
      rw [ih1, row1, (rowsHit_cons x0 y0 r b bs j).1, Bool.xor_assoc]
    · rw [ih2, row2, or_assoc]
      refine or_congr_right ⟨?_, ?_⟩
      · rintro (⟨j, hj, hc⟩ | ⟨j, hj, hc⟩)
        · have := (rowsHit_cons x0 y0 r b bs j).2
          rw [hj, Bool.true_and] at this
          exact ⟨j, by rw [(rowsHit_cons x0 y0 r b bs j).1, hj, this]; rfl, hc⟩
        · have := (rowsHit_cons x0 y0 r b bs j).2
          rw [hj, Bool.and_true] at this
          rw [row1, this, Bool.xor_false] at hc
          exact ⟨j, by rw [(rowsHit_cons x0 y0 r b bs j).1, hj, this]; rfl, hc⟩
      · rintro ⟨j, hj, hc⟩
        obtain ⟨h1, h2⟩ := rowsHit_cons x0 y0 r b bs j
        cases hr : rowHits x0 (y0 + r) b j
        · rw [h1, hr, Bool.false_xor] at hj
          exact .inr ⟨j, hj, by rw [row1, hr, hc]; rfl⟩
        · exact .inl ⟨j, hr, hc⟩

/-- The sprite's bit on the cell of a pixel of the grid, in the pixel's own coordinates. -/
theorem rowsHit_pixel (x0 y0 : Nat) (rows : List Byte) (px py : Nat) (hx : px < 64) (hy : py < 32) :
    rowsHit x0 y0 0 rows (py * 64 + px) = spritePixel x0 y0 rows px py := by
  have e1 : (py * 64 + px) / 64 = py := by omega
  have e2 : (py * 64 + px) % 64 = px := by omega
  simp only [rowsHit, rowHits, spritePixel, e1, e2, spriteBit, Nat.add_zero, true_and]
  by_cases h : x0 ≤ px ∧ px < x0 + 8 ∧ y0 ≤ py ∧ py < y0 + rows.length
  · rw [decide_eq_true h, decide_eq_true (show y0 ≤ py ∧ py < y0 + rows.length by omega),
      decide_eq_true (show py ≤ 31 ∧ x0 ≤ px ∧ px < x0 + 8 by omega)]
    rfl
  · rw [decide_eq_false h]
    by_cases h2 : y0 ≤ py ∧ py < y0 + rows.length
    · rw [decide_eq_false (show ¬ (py ≤ 31 ∧ x0 ≤ px ∧ px < x0 + 8) by omega)]
      simp
    · rw [decide_eq_false h2]
      simp

end Sys2Proof.Machine
end

