-- ==== Sys2Proof/Laws/Exec.lean ====
section
/-! SUPPORT. The branching meanings, one equation a branch: what each answers where its condition holds. -/

namespace Sys2Proof.Machine

variable (s : State)

/-! ### Stack -/

theorem execRet_next (h : s.sp.val ≠ 0) :
    execRet s = .next ((s.setSp ⟨s.sp.val - 1, by have := s.sp.isLt; omega⟩).setPc (s.slot (s.sp.val - 1) + 2)) := by
  rw [execRet, (pop_ok s _ _).mpr ⟨h, rfl, rfl⟩, orRaise_ok]

theorem execRet_fault (h : s.sp.val = 0) : execRet s = .fault .stackUnderflow := by
  rw [execRet, (pop_error s _).mpr ⟨h, rfl⟩, orRaise_error]

theorem execCall_next (nnn : Addr12) (h : s.sp.val < 16) :
    execCall nnn s =
      .next (((s.setStack (s.stack.set s.sp.val s.pc h)).setSp ⟨s.sp.val + 1, Nat.succ_lt_succ h⟩).setPc (zext12 nnn)) := by
  rw [execCall, (push_ok s _ _).mpr ⟨h, rfl⟩, orRaise_ok]

theorem execCall_fault (nnn : Addr12) (h : s.sp.val = 16) : execCall nnn s = .fault .stackOverflow := by
  rw [execCall, (push_error s _ _).mpr ⟨h, rfl⟩, orRaise_error]

/-! ### Memory -/

theorem not_admitted {a n : Nat} (h0 : n ≠ 0) (h : memSize < a + n) : admitted a n = false := by
  rw [Bool.eq_false_iff, ne_eq, admitted_iff]
  omega

theorem execDrw_next (x y : Reg) (n : BitVec 4) (h : n.toNat = 0 ∨ s.i.toNat + n.toNat ≤ 4096) :
    execDrw x y n s = .next (s.drawSprite x y (s.mem.readBytes (effAddr s.i 0) n.toNat)) := by
  have adm : admitted (effAddr s.i 0) n.toNat = true := (admitted_iff _ _).mpr h
  rw [execDrw, (load_ok _ _ _ _).mpr ⟨adm, rfl⟩, orRaise_ok]

theorem execDrw_fault (x y : Reg) (n : BitVec 4) (h0 : n.toNat ≠ 0) (h : 4096 < s.i.toNat + n.toNat) :
    execDrw x y n s = .fault (.memoryOutOfBounds (max s.i.toNat 4096)) := by
  have adm : admitted (effAddr s.i 0) n.toNat = false := not_admitted h0 h
  rw [execDrw, (load_error _ _ _ _).mpr ⟨adm, rfl⟩, orRaise_error]
  rfl

theorem execLdB_next (x : Reg) (h : s.i.toNat + 2 ≤ 4095) :
    execLdB x s = .next (s.setMem (s.mem.writeBytes (effAddr s.i 0) (bcdDigits (s.getV x)))).advance := by
  have : s.i.toNat + 3 ≤ 4096 := by omega
  rw [execLdB, (store_ok _ _ _ _).mpr ⟨(admitted_iff _ _).mpr (.inr this), rfl⟩, orRaise_ok]

theorem execLdB_fault (x : Reg) (h : 4095 < s.i.toNat + 2) :
    execLdB x s = .fault (.memoryOutOfBounds (max s.i.toNat 4096)) := by
  have : memSize < s.i.toNat + 3 := by simp only [memSize]; omega
  rw [execLdB, (store_error _ _ _ _).mpr ⟨not_admitted (by simp [bcdDigits]) this, rfl⟩, orRaise_error]
  rfl

theorem execDumpRegs_next (x : Reg) (h : s.i.toNat + x.toNat ≤ 4095) :
    execDumpRegs x s = .next (s.setMem (s.mem.writeBytes (effAddr s.i 0) (s.regsUpTo x))).advance := by
  have : admitted (effAddr s.i 0) (s.regsUpTo x).length = true := by
    rw [regsUpTo_length, admitted_iff]
    exact .inr (show s.i.toNat + (x.toNat + 1) ≤ 4096 by omega)
  rw [execDumpRegs, (store_ok _ _ _ _).mpr ⟨this, rfl⟩, orRaise_ok]

theorem execDumpRegs_fault (x : Reg) (h : 4095 < s.i.toNat + x.toNat) :
    execDumpRegs x s = .fault (.memoryOutOfBounds (max s.i.toNat 4096)) := by
  have : admitted (effAddr s.i 0) (s.regsUpTo x).length = false := by
    rw [regsUpTo_length]
    exact not_admitted (by omega) (show 4096 < s.i.toNat + (x.toNat + 1) by omega)
  rw [execDumpRegs, (store_error _ _ _ _).mpr ⟨this, rfl⟩, orRaise_error]
  rfl

theorem execLoadRegs_next (x : Reg) (h : s.i.toNat + x.toNat ≤ 4095) :
    execLoadRegs x s =
      .next (s.setRegs (loadFrom s.v 0 (s.mem.readBytes (effAddr s.i 0) (x.toNat + 1)))).advance := by
  have adm : admitted (effAddr s.i 0) (x.toNat + 1) = true :=
    (admitted_iff _ _).mpr (.inr (show s.i.toNat + (x.toNat + 1) ≤ 4096 by omega))
  rw [execLoadRegs, (load_ok _ _ _ _).mpr ⟨adm, rfl⟩, orRaise_ok]

theorem execLoadRegs_fault (x : Reg) (h : 4095 < s.i.toNat + x.toNat) :
    execLoadRegs x s = .fault (.memoryOutOfBounds (max s.i.toNat 4096)) := by
  have adm : admitted (effAddr s.i 0) (x.toNat + 1) = false :=
    not_admitted (by omega) (show 4096 < s.i.toNat + (x.toNat + 1) by omega)
  rw [execLoadRegs, (load_error _ _ _ _).mpr ⟨adm, rfl⟩, orRaise_error]
  rfl

/-! ### Keys -/

theorem keyIndex_eq (b : Byte) : keyIndex b = b.toNat % 16 := by
  rw [keyIndex, BitVec.toNat_and]
  exact Nat.and_two_pow_sub_one_eq_mod _ 4

theorem keyIndex_lt (b : Byte) : keyIndex b < 16 := by
  rw [keyIndex_eq]
  exact Nat.mod_lt _ (by decide)

theorem execSkp_clear (x : Reg) (h : s.key (keyIndex (s.getV x)) = true) (hp : s.params.skpClearsLatch = true) :
    execSkp x s = .next ((s.setKeys (putKey s.keys (keyIndex (s.getV x)) false)).skipIf true) := by
  rw [execSkp, if_pos h, if_pos hp]

theorem execSkp_taken (x : Reg) (h : s.key (keyIndex (s.getV x)) = true) (hp : s.params.skpClearsLatch = false) :
    execSkp x s = .next (s.skipIf true) := by
  rw [execSkp, if_pos h, if_neg (by rw [hp]; exact Bool.false_ne_true)]

theorem execSkp_not (x : Reg) (h : s.key (keyIndex (s.getV x)) = false) : execSkp x s = .next (s.skipIf false) := by
  rw [execSkp, if_neg (by rw [h]; exact Bool.false_ne_true)]

theorem execLdVxK_wait (x : Reg) (h : s.keys = 0) : execLdVxK x s = .next s := by
  rw [execLdVxK, if_pos h]

theorem execLdVxK_clear (x : Reg) (h : s.keys ≠ 0) (hp : s.params.waitKeyClearsLatch = true) :
    execLdVxK x s = .next (((s.setKeys (putKey s.keys (pickKey s.params s.keys).toNat false)).setV x
      ((pickKey s.params s.keys).setWidth 8)).advance) := by
  rw [execLdVxK, if_neg h, State.takeKey, if_pos hp]

theorem execLdVxK_taken (x : Reg) (h : s.keys ≠ 0) (hp : s.params.waitKeyClearsLatch = false) :
    execLdVxK x s = .next ((s.setV x ((pickKey s.params s.keys).setWidth 8)).advance) := by
  rw [execLdVxK, if_neg h, State.takeKey, if_neg (by rw [hp]; exact Bool.false_ne_true)]

end Sys2Proof.Machine
end

