-- ==== Sys2Proof/Laws/PerInstr.lean ====
section
/-! SUPPORT. Statements per instruction: the family `EncodingInMap` says that the encoder's word is the instruction's
own row of the opcode map (30_encoding.md R75), in canonical form (R76). -/

namespace Sys2Proof.Laws.EncodingInMap

/-- The encoded word matches the row of the map that has the instruction's name, with every don't-care bit 0. -/
def Statement (i : Instr) : Prop :=
  ∃ r ∈ opcodeMap, r.mnemonic = i.mnemonic ∧ r.accepts (encode i) = true ∧ encode i &&& r.dontCare = 0

/-- A row of the map that is the instruction's shows the statement. -/
theorem of_row (i : Instr) (r : OpcodeRow) (hr : r ∈ opcodeMap) (hm : r.mnemonic = i.mnemonic)
    (ha : encode i &&& r.mask = r.bits) (hd : encode i &&& r.dontCare = 0) : Statement i :=
  ⟨r, hr, hm, by simpa [OpcodeRow.accepts] using ha, hd⟩

/-- Masking nothing. -/
theorem and_none (w : Word) : w &&& (0 : Word) = 0 := by simp

theorem cls : Statement .cls :=
  of_row _ ⟨"CLS", 0xF0FF, 0x00E0, 0x0F00⟩ (by decide) rfl (by decide) (by decide)

theorem ret : Statement .ret :=
  of_row _ ⟨"RET", 0xF0FF, 0x00EE, 0x0F00⟩ (by decide) rfl (by decide) (by decide)

theorem jp (nnn : Addr12) : Statement (.jp nnn) :=
  of_row _ ⟨"JP_nnn", 0xF000, 0x1000, 0⟩ (by decide) rfl
    (by rw [encode, show (0xF000 : Word) = 0xf#4 ++ 0x0#12 from rfl, mask_nnn]; simp)
    (and_none _)

theorem call (nnn : Addr12) : Statement (.call nnn) :=
  of_row _ ⟨"CALL_nnn", 0xF000, 0x2000, 0⟩ (by decide) rfl
    (by rw [encode, show (0xF000 : Word) = 0xf#4 ++ 0x0#12 from rfl, mask_nnn]; simp)
    (and_none _)

theorem seImm (x : Reg) (nn : Byte) : Statement (.seImm x nn) :=
  of_row _ ⟨"SE_Vx_nn", 0xF000, 0x3000, 0⟩ (by decide) rfl
    (by rw [encode, show (0xF000 : Word) = 0xf#4 ++ 0x0#4 ++ 0x0#8 from rfl, mask_xnn]; simp)
    (and_none _)

theorem sneImm (x : Reg) (nn : Byte) : Statement (.sneImm x nn) :=
  of_row _ ⟨"SNE_Vx_nn", 0xF000, 0x4000, 0⟩ (by decide) rfl
    (by rw [encode, show (0xF000 : Word) = 0xf#4 ++ 0x0#4 ++ 0x0#8 from rfl, mask_xnn]; simp)
    (and_none _)

theorem seReg (x y : Reg) : Statement (.seReg x y) :=
  of_row _ ⟨"SE_Vx_Vy", 0xF000, 0x5000, 0x000F⟩ (by decide) rfl
    (by rw [encode, show (0xF000 : Word) = 0xf#4 ++ 0x0#4 ++ 0x0#4 ++ 0x0#4 from rfl, mask_xyn]; simp)
    (by rw [encode, show (0x000F : Word) = 0x0#4 ++ 0x0#4 ++ 0x0#4 ++ 0xf#4 from rfl, mask_xyn]; simp)

theorem ldImm (x : Reg) (nn : Byte) : Statement (.ldImm x nn) :=
  of_row _ ⟨"LD_Vx_nn", 0xF000, 0x6000, 0⟩ (by decide) rfl
    (by rw [encode, show (0xF000 : Word) = 0xf#4 ++ 0x0#4 ++ 0x0#8 from rfl, mask_xnn]; simp)
    (and_none _)

theorem addImm (x : Reg) (nn : Byte) : Statement (.addImm x nn) :=
  of_row _ ⟨"ADD_Vx_nn", 0xF000, 0x7000, 0⟩ (by decide) rfl
    (by rw [encode, show (0xF000 : Word) = 0xf#4 ++ 0x0#4 ++ 0x0#8 from rfl, mask_xnn]; simp)
    (and_none _)

theorem ldReg (x y : Reg) : Statement (.ldReg x y) :=
  of_row _ ⟨"LD_Vx_Vy", 0xF00F, 0x8000, 0⟩ (by decide) rfl
    (by rw [encode, show (0xF00F : Word) = 0xf#4 ++ 0x0#4 ++ 0x0#4 ++ 0xf#4 from rfl, mask_xyn]; simp)
    (and_none _)

theorem orReg (x y : Reg) : Statement (.orReg x y) :=
  of_row _ ⟨"OR_Vx_Vy", 0xF00F, 0x8001, 0⟩ (by decide) rfl
    (by rw [encode, show (0xF00F : Word) = 0xf#4 ++ 0x0#4 ++ 0x0#4 ++ 0xf#4 from rfl, mask_xyn]; simp)
    (and_none _)

theorem andReg (x y : Reg) : Statement (.andReg x y) :=
  of_row _ ⟨"AND_Vx_Vy", 0xF00F, 0x8002, 0⟩ (by decide) rfl
    (by rw [encode, show (0xF00F : Word) = 0xf#4 ++ 0x0#4 ++ 0x0#4 ++ 0xf#4 from rfl, mask_xyn]; simp)
    (and_none _)

theorem xorReg (x y : Reg) : Statement (.xorReg x y) :=
  of_row _ ⟨"XOR_Vx_Vy", 0xF00F, 0x8003, 0⟩ (by decide) rfl
    (by rw [encode, show (0xF00F : Word) = 0xf#4 ++ 0x0#4 ++ 0x0#4 ++ 0xf#4 from rfl, mask_xyn]; simp)
    (and_none _)

theorem addReg (x y : Reg) : Statement (.addReg x y) :=
  of_row _ ⟨"ADD_Vx_Vy", 0xF00F, 0x8004, 0⟩ (by decide) rfl
    (by rw [encode, show (0xF00F : Word) = 0xf#4 ++ 0x0#4 ++ 0x0#4 ++ 0xf#4 from rfl, mask_xyn]; simp)
    (and_none _)

theorem subReg (x y : Reg) : Statement (.subReg x y) :=
  of_row _ ⟨"SUB_Vx_Vy", 0xF00F, 0x8005, 0⟩ (by decide) rfl
    (by rw [encode, show (0xF00F : Word) = 0xf#4 ++ 0x0#4 ++ 0x0#4 ++ 0xf#4 from rfl, mask_xyn]; simp)
    (and_none _)

theorem shr (x : Reg) : Statement (.shr x) :=
  of_row _ ⟨"SHR_Vx", 0xF00F, 0x8006, 0x00F0⟩ (by decide) rfl
    (by rw [encode, show (0xF00F : Word) = 0xf#4 ++ 0x0#4 ++ 0xf#8 from rfl, mask_xnn]; simp)
    (by rw [encode, show (0x00F0 : Word) = 0x0#4 ++ 0x0#4 ++ 0xf0#8 from rfl, mask_xnn]; simp)

theorem subnReg (x y : Reg) : Statement (.subnReg x y) :=
  of_row _ ⟨"SUBN_Vx_Vy", 0xF00F, 0x8007, 0⟩ (by decide) rfl
    (by rw [encode, show (0xF00F : Word) = 0xf#4 ++ 0x0#4 ++ 0x0#4 ++ 0xf#4 from rfl, mask_xyn]; simp)
    (and_none _)

theorem shl (x : Reg) : Statement (.shl x) :=
  of_row _ ⟨"SHL_Vx", 0xF00F, 0x800E, 0x00F0⟩ (by decide) rfl
    (by rw [encode, show (0xF00F : Word) = 0xf#4 ++ 0x0#4 ++ 0xf#8 from rfl, mask_xnn]; simp)
    (by rw [encode, show (0x00F0 : Word) = 0x0#4 ++ 0x0#4 ++ 0xf0#8 from rfl, mask_xnn]; simp)

theorem sneReg (x y : Reg) : Statement (.sneReg x y) :=
  of_row _ ⟨"SNE_Vx_Vy", 0xF000, 0x9000, 0x000F⟩ (by decide) rfl
    (by rw [encode, show (0xF000 : Word) = 0xf#4 ++ 0x0#4 ++ 0x0#4 ++ 0x0#4 from rfl, mask_xyn]; simp)
    (by rw [encode, show (0x000F : Word) = 0x0#4 ++ 0x0#4 ++ 0x0#4 ++ 0xf#4 from rfl, mask_xyn]; simp)

theorem ldI (nnn : Addr12) : Statement (.ldI nnn) :=
  of_row _ ⟨"LD_I_nnn", 0xF000, 0xA000, 0⟩ (by decide) rfl
    (by rw [encode, show (0xF000 : Word) = 0xf#4 ++ 0x0#12 from rfl, mask_nnn]; simp)
    (and_none _)

theorem jpV0 (nnn : Addr12) : Statement (.jpV0 nnn) :=
  of_row _ ⟨"JP_V0_nnn", 0xF000, 0xB000, 0⟩ (by decide) rfl
    (by rw [encode, show (0xF000 : Word) = 0xf#4 ++ 0x0#12 from rfl, mask_nnn]; simp)
    (and_none _)

theorem rnd (x : Reg) (nn : Byte) : Statement (.rnd x nn) :=
  of_row _ ⟨"RND_Vx_nn", 0xF000, 0xC000, 0⟩ (by decide) rfl
    (by rw [encode, show (0xF000 : Word) = 0xf#4 ++ 0x0#4 ++ 0x0#8 from rfl, mask_xnn]; simp)
    (and_none _)

theorem drw (x y : Reg) (n : BitVec 4) : Statement (.drw x y n) :=
  of_row _ ⟨"DRW_Vx_Vy_n", 0xF000, 0xD000, 0⟩ (by decide) rfl
    (by rw [encode, show (0xF000 : Word) = 0xf#4 ++ 0x0#4 ++ 0x0#4 ++ 0x0#4 from rfl, mask_xyn]; simp)
    (and_none _)

theorem skp (x : Reg) : Statement (.skp x) :=
  of_row _ ⟨"SKP_Vx", 0xF0FF, 0xE09E, 0⟩ (by decide) rfl
    (by rw [encode, show (0xF0FF : Word) = 0xf#4 ++ 0x0#4 ++ 0xff#8 from rfl, mask_xnn]; simp)
    (and_none _)

theorem sknp (x : Reg) : Statement (.sknp x) :=
  of_row _ ⟨"SKNP_Vx", 0xF0FF, 0xE0A1, 0⟩ (by decide) rfl
    (by rw [encode, show (0xF0FF : Word) = 0xf#4 ++ 0x0#4 ++ 0xff#8 from rfl, mask_xnn]; simp)
    (and_none _)

theorem ldVxDt (x : Reg) : Statement (.ldVxDt x) :=
  of_row _ ⟨"LD_Vx_DT", 0xF0FF, 0xF007, 0⟩ (by decide) rfl
    (by rw [encode, show (0xF0FF : Word) = 0xf#4 ++ 0x0#4 ++ 0xff#8 from rfl, mask_xnn]; simp)
    (and_none _)

theorem ldVxK (x : Reg) : Statement (.ldVxK x) :=
  of_row _ ⟨"LD_Vx_K", 0xF0FF, 0xF00A, 0⟩ (by decide) rfl
    (by rw [encode, show (0xF0FF : Word) = 0xf#4 ++ 0x0#4 ++ 0xff#8 from rfl, mask_xnn]; simp)
    (and_none _)

theorem ldDtVx (x : Reg) : Statement (.ldDtVx x) :=
  of_row _ ⟨"LD_DT_Vx", 0xF0FF, 0xF015, 0⟩ (by decide) rfl
    (by rw [encode, show (0xF0FF : Word) = 0xf#4 ++ 0x0#4 ++ 0xff#8 from rfl, mask_xnn]; simp)
    (and_none _)

theorem ldStVx (x : Reg) : Statement (.ldStVx x) :=
  of_row _ ⟨"LD_ST_Vx", 0xF0FF, 0xF018, 0⟩ (by decide) rfl
    (by rw [encode, show (0xF0FF : Word) = 0xf#4 ++ 0x0#4 ++ 0xff#8 from rfl, mask_xnn]; simp)
    (and_none _)

theorem addI (x : Reg) : Statement (.addI x) :=
  of_row _ ⟨"ADD_I_Vx", 0xF0FF, 0xF01E, 0⟩ (by decide) rfl
    (by rw [encode, show (0xF0FF : Word) = 0xf#4 ++ 0x0#4 ++ 0xff#8 from rfl, mask_xnn]; simp)
    (and_none _)

theorem ldF (x : Reg) : Statement (.ldF x) :=
  of_row _ ⟨"LD_F_Vx", 0xF0FF, 0xF029, 0⟩ (by decide) rfl
    (by rw [encode, show (0xF0FF : Word) = 0xf#4 ++ 0x0#4 ++ 0xff#8 from rfl, mask_xnn]; simp)
    (and_none _)

theorem ldB (x : Reg) : Statement (.ldB x) :=
  of_row _ ⟨"LD_B_Vx", 0xF0FF, 0xF033, 0⟩ (by decide) rfl
    (by rw [encode, show (0xF0FF : Word) = 0xf#4 ++ 0x0#4 ++ 0xff#8 from rfl, mask_xnn]; simp)
    (and_none _)

theorem dumpRegs (x : Reg) : Statement (.dumpRegs x) :=
  of_row _ ⟨"LD__I__Vx", 0xF0FF, 0xF055, 0⟩ (by decide) rfl
    (by rw [encode, show (0xF0FF : Word) = 0xf#4 ++ 0x0#4 ++ 0xff#8 from rfl, mask_xnn]; simp)
    (and_none _)

theorem loadRegs (x : Reg) : Statement (.loadRegs x) :=
  of_row _ ⟨"LD_Vx__I", 0xF0FF, 0xF065, 0⟩ (by decide) rfl
    (by rw [encode, show (0xF0FF : Word) = 0xf#4 ++ 0x0#4 ++ 0xff#8 from rfl, mask_xnn]; simp)
    (and_none _)

end Sys2Proof.Laws.EncodingInMap
end

