-- ==== Sys2Proof/Tests/Slice0.lean ====
section
/-! SUPPORT. Tests. Every expected result is taken from the spec: words from 30_encoding.md R75, steps from the vectors
`T<n>` of 95_test_vectors.md. Each witness theorem shows that the hypotheses of the statement it is named after can be
met, clause by clause at the ends of their ranges. -/

namespace Sys2Proof.Tests

open Sys2Proof.Machine

/-! ### Words that are no instruction, and words with a don't-care bit set (R76, R77) -/

theorem test_illformed_family0 : isInstructionWord 0x0123 = false := by decide
theorem test_illformed_zero : isInstructionWord 0x0000 = false := by decide
theorem test_illformed_family8_low : isInstructionWord 0x8128 = false := by decide
theorem test_illformed_family8_high : isInstructionWord 0x812F = false := by decide
theorem test_illformed_familyE : isInstructionWord 0xE29F = false := by decide
theorem test_illformed_familyF : isInstructionWord 0xF3FF = false := by decide
theorem test_wellformed_last_words : isInstructionWord 0x5FFF = true ∧ isInstructionWord 0xDFFF = true := by decide
theorem test_alias_cls : isInstructionWord 0x03E0 = true ∧ isCanonicalWord 0x03E0 = false := by decide
theorem test_alias_ret : isInstructionWord 0x07EE = true ∧ isCanonicalWord 0x07EE = false := by decide
theorem test_alias_seReg : isInstructionWord 0x512F = true ∧ isCanonicalWord 0x512F = false := by decide
theorem test_alias_sneReg : isInstructionWord 0x9125 = true ∧ isCanonicalWord 0x9125 = false := by decide
theorem test_alias_shr : isInstructionWord 0x8126 = true ∧ isCanonicalWord 0x8126 = false := by decide
theorem test_alias_shl : isInstructionWord 0x812E = true ∧ isCanonicalWord 0x812E = false := by decide
theorem test_canonical : isCanonicalWord 0x00E0 = true ∧ isCanonicalWord 0x5120 = true := by decide
theorem test_truncated : decodeBytes [0x60] = .error .truncated := by decide

/-! ### Every constructor's decoding, from a word of R75's encoding of it -/

theorem test_decode_cls : decodeWord 0x00E0 = some .cls := by decide
theorem test_decode_ret : decodeWord 0x00EE = some .ret := by decide
theorem test_decode_jp : decodeWord 0x1234 = some (.jp 0x234) := by decide
theorem test_decode_call : decodeWord 0x2ABC = some (.call 0xABC) := by decide
theorem test_decode_seImm : decodeWord 0x332A = some (.seImm 3 0x2A) := by decide
theorem test_decode_sneImm : decodeWord 0x4FA5 = some (.sneImm 0xF 0xA5) := by decide
theorem test_decode_seReg : decodeWord 0x5120 = some (.seReg 1 2) := by decide
theorem test_decode_ldImm : decodeWord 0x6A2F = some (.ldImm 0xA 0x2F) := by decide
theorem test_decode_addImm : decodeWord 0x7102 = some (.addImm 1 0x02) := by decide
theorem test_decode_ldReg : decodeWord 0x8120 = some (.ldReg 1 2) := by decide
theorem test_decode_orReg : decodeWord 0x8121 = some (.orReg 1 2) := by decide
theorem test_decode_andReg : decodeWord 0x8122 = some (.andReg 1 2) := by decide
theorem test_decode_xorReg : decodeWord 0x8123 = some (.xorReg 1 2) := by decide
theorem test_decode_addReg : decodeWord 0x8124 = some (.addReg 1 2) := by decide
theorem test_decode_subReg : decodeWord 0x8125 = some (.subReg 1 2) := by decide
theorem test_decode_shr : decodeWord 0x8A06 = some (.shr 0xA) := by decide
theorem test_decode_subnReg : decodeWord 0x8127 = some (.subnReg 1 2) := by decide
theorem test_decode_shl : decodeWord 0x8A0E = some (.shl 0xA) := by decide
theorem test_decode_sneReg : decodeWord 0x9120 = some (.sneReg 1 2) := by decide
theorem test_decode_ldI : decodeWord 0xA2F0 = some (.ldI 0x2F0) := by decide
theorem test_decode_jpV0 : decodeWord 0xB300 = some (.jpV0 0x300) := by decide
theorem test_decode_rnd : decodeWord 0xC30F = some (.rnd 3 0x0F) := by decide
theorem test_decode_drw : decodeWord 0xD125 = some (.drw 1 2 5) := by decide
theorem test_decode_skp : decodeWord 0xE29E = some (.skp 2) := by decide
theorem test_decode_sknp : decodeWord 0xE2A1 = some (.sknp 2) := by decide
theorem test_decode_ldVxDt : decodeWord 0xF507 = some (.ldVxDt 5) := by decide
theorem test_decode_ldVxK : decodeWord 0xF30A = some (.ldVxK 3) := by decide
theorem test_decode_ldDtVx : decodeWord 0xF515 = some (.ldDtVx 5) := by decide
theorem test_decode_ldStVx : decodeWord 0xF518 = some (.ldStVx 5) := by decide
theorem test_decode_addI : decodeWord 0xF11E = some (.addI 1) := by decide
theorem test_decode_ldF : decodeWord 0xF429 = some (.ldF 4) := by decide
theorem test_decode_ldB : decodeWord 0xF533 = some (.ldB 5) := by decide
theorem test_decode_dumpRegs : decodeWord 0xF255 = some (.dumpRegs 2) := by decide
theorem test_decode_loadRegs : decodeWord 0xF265 = some (.loadRegs 2) := by decide
theorem test_decode_table_word : decodeTableWord 16 0x7102 = some (.addImm 1 0x02) ∧ decodeTableWord 16 0x0000 = none := by
  decide

/-! ### One step: the vectors of the spec -/

/-- The state after a step that runs the word `w`, placed at the `PC` of `s`. -/
def stepOf (w : Nat) (s : State) : State := (stepReport (s.withFetchWord 16 w)).1

/-- The fault that step reports. -/
def reportOf (w : Nat) (s : State) : Option Fault := (stepReport (s.withFetchWord 16 w)).2

/-- Reset with `V[1]`, `V[2]` and `VF` set. -/
def regs (v1 v2 vf : Byte) : State := ((State.reset.setV 1 v1).setV 2 v2).setV 0xF vf

/-- Reset with `SP` occupied slots, the last holding `a`. -/
def called (n : Fin 17) (k : Nat) (a : Word) : State :=
  (State.reset.setStack (State.reset.stack.setIfInBounds k a)).setSp n

/-- Reset with `I` and bytes in memory from an address up. -/
def data (i : Word) (a : Nat) (us : List Byte) : State :=
  (State.reset.setI i).setMem (State.reset.mem.writeBytes a us)

/-- `V[1]` and `VF` of a state. -/
def resultAndFlag (s : State) : Byte × Byte := (s.getV 1, s.getV 0xF)

/-! Fetch and decode (T1 to T13). -/

theorem test_T1_unknown_opcode : stepReport State.reset = (State.reset, some (.unknownOpcode 0)) := by rfl
theorem test_T2_unknown_opcode_advances :
    (stepReport { State.reset with params := { Params.default with unkPcAdvances := true } }).1.pc = 0x202 := by decide
theorem test_T3_last_word : (stepOf 0x6001 (State.reset.setPc 0xFFE)).pc = 0x1000 ∧
    (stepOf 0x6001 (State.reset.setPc 0xFFE)).getV 0 = 1 := by decide
theorem test_T4_fetch_across_the_end :
    (stepReport (State.reset.setPc 0xFFF)).2 = some (.memoryOutOfBounds 4096) := by decide
theorem test_T6_fetch_far_out : (stepReport (State.reset.setPc 0xFFFF)).2 = some (.memoryOutOfBounds 65535) := by decide
theorem test_T7_odd_counter : (stepOf 0x6105 (State.reset.setPc 0x201)).pc = 0x203 := by decide
theorem test_T8_unknown_family8 : reportOf 0x8128 State.reset = some (.unknownOpcode 0x8128) := by decide
theorem test_T13_machine_call : reportOf 0x0123 State.reset = some (.unknownOpcode 0x0123) := by decide

/-! Control flow (T20 to T47). -/

theorem test_T20_ret : (stepOf 0x00EE ((called 1 0 0x200).setPc 0x300)).pc = 0x202 ∧
    (stepOf 0x00EE ((called 1 0 0x200).setPc 0x300)).slot 0 = 0x200 := by decide
theorem test_T21_ret_empty : reportOf 0x00EE State.reset = some .stackUnderflow := by decide
theorem test_T25_jp : (stepOf 0x1234 State.reset).pc = 0x234 := by decide
theorem test_T29_call : (stepOf 0x2ABC (State.reset.setSp 15)).pc = 0xABC ∧
    (stepOf 0x2ABC (State.reset.setSp 15)).slot 15 = 0x200 := by decide
theorem test_T30_call_full : reportOf 0x2ABC (State.reset.setSp 16) = some .stackOverflow := by decide
theorem test_T31_seImm : (stepOf 0x332A (State.reset.setV 3 0x2A)).pc = 0x204 := by decide
theorem test_T32_seImm_not : (stepOf 0x332A (State.reset.setV 3 0x2B)).pc = 0x202 := by decide
theorem test_T34_sneImm_not : (stepOf 0x432A (State.reset.setV 3 0x2A)).pc = 0x202 := by decide
theorem test_T35_sneImm : (stepOf 0x432A State.reset).pc = 0x204 := by decide
theorem test_T36_seReg : (stepOf 0x5120 (regs 7 7 0)).pc = 0x204 := by decide
theorem test_T37_seReg_not : (stepOf 0x5120 (regs 7 8 0)).pc = 0x202 := by decide
theorem test_T40_sneReg : (stepOf 0x9120 (regs 7 8 0)).pc = 0x204 := by decide
theorem test_T41_sneReg_not : (stepOf 0x9120 (regs 7 7 0)).pc = 0x202 := by decide
theorem test_T45_jpV0_no_mask : (stepOf 0xBFFF (State.reset.setV 0 0xFF)).pc = 0x10FE := by decide
theorem test_T46_jpV0_register0 : (stepOf 0xB300 (State.reset.setV 3 0x55)).pc = 0x300 := by decide

/-! Registers and ALU (T60 to T103). -/

theorem test_T60_ldImm : (stepOf 0x6A2F State.reset).getV 0xA = 0x2F := by decide
theorem test_T62_addImm_no_flag : resultAndFlag (stepOf 0x7102 (regs 0xFF 0 0)) = (0x01, 0) := by decide
theorem test_T64_addImm_flag_register : (stepOf 0x7F01 (regs 0 0 0xFF)).getV 0xF = 0 := by decide
theorem test_T66_ldReg : resultAndFlag (stepOf 0x8120 (regs 0 0x5C 0)) = (0x5C, 0) := by decide
theorem test_T67_orReg : resultAndFlag (stepOf 0x8121 (regs 0xF0 0x0F 7)) = (0xFF, 7) := by decide
theorem test_T68_andReg : resultAndFlag (stepOf 0x8122 (regs 0xF0 0x3C 7)) = (0x30, 7) := by decide
theorem test_T69_xorReg : resultAndFlag (stepOf 0x8123 (regs 0xF0 0x3C 7)) = (0xCC, 7) := by decide
theorem test_T71_addReg_carry : resultAndFlag (stepOf 0x8124 (regs 0xFF 0x01 0)) = (0x00, 1) := by decide
theorem test_T76_addReg_flag_stands : (stepOf 0x8F14 (regs 0x02 0 0xFF)).getV 0xF = 1 := by decide
theorem test_T79_subReg_borrow : resultAndFlag (stepOf 0x8125 (regs 0x03 0x05 0)) = (0xFE, 0) := by decide
theorem test_T80_subReg_equal : resultAndFlag (stepOf 0x8125 (regs 0x05 0x05 0)) = (0x00, 1) := by decide
theorem test_T87_shr_ignores_y : resultAndFlag (stepOf 0x8126 (regs 0x05 0xFF 0)) = (0x02, 1) := by decide
theorem test_T91_shr_flag_stands : (stepOf 0x8F06 (regs 0 0 0x03)).getV 0xF = 1 := by decide
theorem test_T92_subnReg : resultAndFlag (stepOf 0x8127 (regs 0x03 0x05 0)) = (0x02, 1) := by decide
theorem test_T93_subnReg_borrow : resultAndFlag (stepOf 0x8127 (regs 0x05 0x03 0)) = (0xFE, 0) := by decide
theorem test_T96_shl : resultAndFlag (stepOf 0x810E (regs 0x81 0 0)) = (0x02, 1) := by decide
theorem test_T97_shl_no_carry : resultAndFlag (stepOf 0x810E (regs 0x41 0 1)) = (0x82, 0) := by decide
theorem test_T101_rnd_given_byte : (State.reset.rndWith 0xA7 3 0x0F).getV 3 = 0x07 := by decide
theorem test_rnd_takes_one_byte : (stepOf 0xC30F State.reset).draws = 1 := by rfl

/-! Index register and memory (T120 to T148). -/

theorem test_T120_ldI : (stepOf 0xA2F0 State.reset).i = 0x2F0 := by decide
theorem test_T121_addI_past_12_bits : (stepOf 0xF11E ((regs 1 0 9).setI 0x0FFF)).i = 0x1000 ∧
    (stepOf 0xF11E ((regs 1 0 9).setI 0x0FFF)).getV 0xF = 9 := by decide
theorem test_T122_addI_wraps : (stepOf 0xF11E ((regs 2 0 0).setI 0xFFFF)).i = 0x0001 := by decide
theorem test_T125_ldF_low_nibble : (stepOf 0xF429 (State.reset.setV 4 0x1A)).i = 0x0032 := by decide
theorem test_T128_ldB : (stepOf 0xF533 ((data 0x300 0 []).setV 5 234)).mem.readBytes 0x2FF 5 = [0, 2, 3, 4, 0] := by decide
theorem test_T134_ldB_faults : reportOf 0xF533 ((data 4094 0 []).setV 5 123) = some (.memoryOutOfBounds 4096) := by decide
theorem test_T137_dumpRegs :
    (stepOf 0xF255 ((((data 0x300 0 []).setV 0 1).setV 1 2).setV 2 3)).mem.readBytes 0x300 4 = [1, 2, 3, 0] := by decide
theorem test_T142_dumpRegs_faults : reportOf 0xF155 (data 0x0FFF 0 []) = some (.memoryOutOfBounds 4096) := by decide
theorem test_T144_loadRegs : (stepOf 0xF265 ((data 0x300 0x300 [2, 3, 4]).setV 3 0x77)).v.toList.take 4 =
    [2, 3, 4, 0x77] := by decide
theorem test_T147_loadRegs_faults : reportOf 0xF265 (data 0x0FFE 0 []) = some (.memoryOutOfBounds 4096) := by decide

/-! Display (T160 to T178). -/

theorem test_T160_cls : (stepOf 0x00E0 (State.reset.setDisp (State.reset.disp.setCell 2047 true))).disp.cell 2047 = false ∧
    (stepOf 0x00E0 State.reset).dirty = true := by decide
/-- A sprite of two rows at the lower right corner, column 60 and row 31 (T165). -/
def corner : State := stepOf 0xD012 (((data 0x300 0x300 [0xFF, 0xFF]).setV 0 60).setV 1 31)

theorem test_T165_drw_edge : corner.disp.row 31 = 0xF000000000000000 ∧ corner.disp.row 0 = 0 ∧ corner.getV 0xF = 0 := by
  decide +kernel
theorem test_T169_drw_collides :
    let s := stepOf 0xD011 ((data 0x300 0x300 [0x3C]).setDisp (State.reset.disp.setCell 3 true))
    s.disp.row 0 = 0x34 ∧ s.getV 0xF = 1 := by decide

/-! Keys and timers (T200 to T217), the driver (T218 to T244). -/

theorem test_T203_skp_low_nibble : (stepOf 0xE29E ((State.reset.setKeys 0x80).setV 2 0x17)).pc = 0x204 := by decide
theorem test_T201_skp_clears_latch :
    let p : Params := { Params.default with skpClearsLatch := true }
    (stepOf 0xE29E { (State.reset.setKeys 0x81).setV 2 7 with params := p }).keys = 0x01 := by decide
theorem test_T206_sknp_not : (stepOf 0xE2A1 ((State.reset.setKeys 0x80).setV 2 7)).pc = 0x202 := by decide
theorem test_T207_sknp : (stepOf 0xE2A1 (State.reset.setV 2 0xF7)).pc = 0x204 := by decide
theorem test_T208_key_wait_repeats : (stepOf 0xF30A (State.reset.setV 3 0x55)).pc = 0x200 ∧
    (stepOf 0xF30A (State.reset.setV 3 0x55)).getV 3 = 0x55 := by decide
theorem test_T211_key_wait_least : (stepOf 0xF30A (State.reset.setKeys 0x210)).getV 3 = 4 := by decide
theorem test_T214_ldVxDt : (stepOf 0xF507 (State.reset.setDt 0x3C)).getV 5 = 0x3C := by decide
theorem test_T217_ldDtVx : (stepOf 0xF515 (State.reset.setDt 9)).dt = 0 := by decide
theorem test_T216_ldStVx : (stepOf 0xF518 (State.reset.setV 5 2)).st = 2 := by decide
theorem test_T219_tick_no_wrap : (State.reset.after [.timerTick]).dt = 0 := by decide
theorem test_T220_tick : ((State.reset.setDt 255).setSt 1).timerTick.dt = 254 ∧
    ((State.reset.setDt 255).setSt 1).timerTick.st = 0 := by decide
theorem test_T223_setKey_refused : (transact (.setKey 16 1) State.reset).2 = .refused := by decide
theorem test_S5_boot : ((State.reset.setI 5).after [.reset, .loadProgram [0x00, 0xE0], .step]).pc = 0x202 := by decide +kernel

/-! ### Witnesses -/

theorem witness_EncodeOfDecodeIsCanonical : decodeWord 0x512F = some (.seReg 1 2) := by decide

theorem witness_DecoderFollowsTheMap : decodeWord 0x00EF = none ∧ decodeWord 0x800D = none ∧ decodeWord 0xE0A0 = none ∧
    decodeWord 0xF066 = none ∧ ∃ r ∈ opcodeMap, r.accepts 0xF065 = true := by decide

theorem witness_DontCareBitsDoNotMatter : ∃ r ∈ opcodeMap, r.accepts 0x5120 = true ∧
    ((0x5120 : Word) ^^^ 0x512F) &&& ~~~r.dontCare = 0 := by decide

/-- The highest `PC` that can be fetched from, with an instruction there. -/
def atTop : State := (State.reset.setPc 0xFFE).withFetchWord 16 0x6001

theorem witness_StepRunsTheDecodedInstruction : atTop.pc.toNat + 1 = 4095 ∧
    decodeWord (BitVec.ofNat 16 ((atTop.mem.read atTop.pc.toNat).toNat * 256 +
      (atTop.mem.read (atTop.pc.toNat + 1)).toNat)) = some (.ldImm 0 1) := by decide

theorem witness_StoredWordIsFetched : (State.reset.setPc 0xFFE).pc.toNat + 1 ≤ 4095 ∧
    decodeTableWord 16 0x6001 = some (.ldImm 0 1) := by decide

theorem witness_FetchFaultsBeforeDecode_bounds : (State.reset.setPc 0xFFF).pc.toNat + 1 > 4095 := by decide

theorem witness_FetchFaultsBeforeDecode_unknown : (State.reset.setPc 0xFFE).pc.toNat + 1 ≤ 4095 ∧
    (0x0000 : Word) = BitVec.ofNat 16 (((State.reset.setPc 0xFFE).mem.read 0xFFE).toNat * 256 +
      ((State.reset.setPc 0xFFE).mem.read 0xFFF).toNat) ∧ decodeWord 0x0000 = none := by decide

theorem witness_FaultTableIsComplete_none : faultOf (.call 0x300) (State.reset.setSp 15) = none ∧
    faultOf .ret (State.reset.setSp 1) = none ∧ faultOf (.drw 0 1 0) (State.reset.setI 0xFFFF) = none ∧
    faultOf (.drw 0 1 15) (State.reset.setI 0xFF1) = none ∧ faultOf (.ldB 0) (State.reset.setI 0xFFD) = none ∧
    faultOf (.dumpRegs 15) (State.reset.setI 0xFF0) = none ∧ faultOf (.loadRegs 0) (State.reset.setI 0xFFF) = none := by decide

theorem witness_FaultTableIsComplete_fault : faultOf (.call 0x300) (State.reset.setSp 16) = some .stackOverflow ∧
    faultOf .ret State.reset = some .stackUnderflow ∧
    faultOf (.drw 0 1 15) (State.reset.setI 0xFF2) = some (.memoryOutOfBounds 4096) ∧
    faultOf (.ldB 0) (State.reset.setI 0xFFE) = some (.memoryOutOfBounds 4096) ∧
    faultOf (.dumpRegs 15) (State.reset.setI 0xFF1) = some (.memoryOutOfBounds 4096) ∧
    faultOf (.loadRegs 0) (State.reset.setI 0x1000) = some (.memoryOutOfBounds 4096) := by decide

/-- Reset with `UNK_PC_ADVANCE` 2. -/
def advancing : State := { State.reset with params := { Params.default with unkPcAdvances := true } }

theorem witness_FaultingStepChangesNothing_unknown : step State.reset = .fault (.unknownOpcode 0) ∧
    State.reset.params.unkPcAdvances = false := ⟨rfl, rfl⟩

theorem witness_FaultingStepChangesNothing_advance : step advancing = .fault (.unknownOpcode 0) ∧
    advancing.params.unkPcAdvances = true := ⟨rfl, rfl⟩

theorem witness_FaultingStepChangesNothing_other : step (State.reset.withFetchWord 16 0x00EE) = .fault .stackUnderflow := rfl

theorem witness_FaultingStepChangesNothing_again : (stepReport State.reset).1 = State.reset := rfl

theorem witness_StepCompletesOrReports : step (State.reset.setPc 0xFFFF) = .fault (.memoryOutOfBounds 65535) ∧
    step State.reset = .fault (.unknownOpcode 0) ∧ ∃ t, step atTop = .next t := ⟨rfl, rfl, _, rfl⟩

theorem witness_ProgramCounterTable : ∃ t, exec (.seImm 0 0) State.reset = .next t ∧ t.pc = 0x204 := ⟨_, rfl, rfl⟩

theorem witness_RegistersWrittenTable : ∃ t, exec (.loadRegs 2) State.reset = .next t ∧ mayWrite (.loadRegs 2) 3 = false ∧
    mayWrite (.loadRegs 2) 2 = true := ⟨_, rfl, rfl, rfl⟩

theorem witness_StackReachedOnlyByCallAndRet : Instr.drw 0 1 5 ≠ .ret ∧ ∀ nnn, Instr.drw 0 1 5 ≠ .call nnn := by simp

theorem witness_DirtySetByDisplayInstructionsOnly_other : Instr.ldB 0 ≠ .cls ∧ ∀ x y n, Instr.ldB 0 ≠ .drw x y n := by simp

theorem witness_DirtySetByDisplayInstructionsOnly_drw : ∃ t, exec (.drw 0 1 5) State.reset = .next t ∧ t.dirty = true :=
  ⟨_, rfl, rfl⟩

theorem witness_DirtySetByDisplayInstructionsOnly_cls : ∃ t, exec .cls State.reset = .next t ∧ t.dirty = true :=
  ⟨_, rfl, rfl⟩

theorem witness_DirtySetByDisplayInstructionsOnly_driver : (State.reset.setDirty true).dirty = true ∧
    Transaction.step ≠ .clearDirty ∧ Transaction.step ≠ .reset ∧ ∀ e n, Transaction.step ≠ .poke e n :=
  ⟨rfl, by simp, by simp, by simp⟩

theorem witness_TimersReachedOnlyByTheirMoves : (∀ x, Instr.ldStVx 0 ≠ .ldDtVx x) ∧ (∀ x, Instr.ldStVx 0 ≠ .ldVxDt x) ∧
    (∀ x, Instr.ldDtVx 0 ≠ .ldStVx x) ∧ ∃ t, exec (.ldVxDt 0) State.reset = .next t :=
  ⟨by simp, by simp, by simp, _, rfl⟩

theorem witness_SpacesReachedOnlyByTheirInstructions : (∀ x y n, Instr.call 0 ≠ .drw x y n) ∧
    (∀ x, Instr.call 0 ≠ .ldB x ∧ Instr.call 0 ≠ .dumpRegs x ∧ Instr.call 0 ≠ .loadRegs x) ∧ Instr.call 0 ≠ .cls ∧
    ∀ x, Instr.call 0 ≠ .skp x ∧ Instr.call 0 ≠ .sknp x ∧ Instr.call 0 ≠ .ldVxK x := by simp

theorem witness_IndexRegisterReachedOnlyByItsInstructions : (∀ nnn, Instr.cls ≠ .ldI nnn) ∧ (∀ x y n, Instr.cls ≠ .drw x y n) ∧
    (∀ x, Instr.cls ≠ .addI x ∧ Instr.cls ≠ .ldF x ∧ Instr.cls ≠ .ldB x ∧ Instr.cls ≠ .dumpRegs x ∧ Instr.cls ≠ .loadRegs x) ∧
    ∃ t, exec (.dumpRegs 15) (State.reset.setI 0xFF0) = .next t ∧ t.i = 0xFF0 :=
  ⟨by simp, by simp, by simp, _, rfl, rfl⟩

theorem witness_LatchesNeverSetByInstructions : ∃ t, exec (.ldVxK 3) (State.reset.setKeys 0x80) = .next t ∧
    t.key 7 = true ∧ State.reset.params.skpClearsLatch = false ∧ State.reset.params.waitKeyClearsLatch = false :=
  ⟨_, rfl, rfl, rfl, rfl⟩

theorem witness_InstructionsIgnoreRandomSourceAndFont : ∀ x nn, Instr.addReg 0 1 ≠ .rnd x nn := by simp

theorem witness_StepKeepsMemoryForm : State.reset.consistent = true ∧
    ∃ t, step ((data 0x300 0x300 [9]).withFetchWord 16 0xF055) = .next t ∧ t.mem.read 0x300 = 0 ∧
      (data 0x300 0x300 [9]).consistent = true := ⟨rfl, _, rfl, rfl, rfl⟩

theorem witness_TransactionsKeepInvariants : State.reset.consistent = true ∧ State.reset.Reachable := ⟨rfl, [], rfl⟩

theorem witness_StepKeepsCodeBound : (State.reset.withFetchWord 16 0x2300).CodeBounded ∧
    ∃ t, step (State.reset.withFetchWord 16 0x2300) = .next t ∧ t.slot 0 = 0x200 :=
  ⟨⟨by decide, fun _ h => absurd h (Nat.not_lt_zero _)⟩, _, rfl, rfl⟩

theorem witness_AccessorsSeeTheWholeState : State.reset.consistent = true ∧
    (∀ e, State.reset.peek e = State.reset.peek e) ∧ State.reset.params = State.reset.params ∧
    State.reset.draws = State.reset.draws := ⟨rfl, fun _ => rfl, rfl, rfl⟩

theorem witness_StackIsLastInFirstOut_call : ∃ t, exec (.call 0x300) (State.reset.setSp 15) = .next t := ⟨_, rfl⟩
theorem witness_StackIsLastInFirstOut_ret : ∃ t, exec .ret (State.reset.setSp 16) = .next t := ⟨_, rfl⟩
theorem witness_StackIsLastInFirstOut_other : (∃ t, exec .cls State.reset = .next t) ∧ Instr.cls ≠ .ret ∧
    ∀ nnn, Instr.cls ≠ .call nnn := ⟨⟨_, rfl⟩, by simp, by simp⟩

theorem witness_MutatorsWriteOneElementOrNothing_effect : (∃ t, State.reset.poke (.mem 4095) 255 = some t) ∧
    (∃ t, State.reset.poke (.disp 2047) 1 = some t) ∧ (∃ t, State.reset.poke .sp 16 = some t) ∧
    State.reset.peek (.mem 4095) ≠ none ∧ 255 < (Element.mem 4095).limit ∧ State.reset.peek .sp = some 0 ∧
    16 < Element.sp.limit := ⟨⟨_, rfl⟩, ⟨_, rfl⟩, ⟨_, rfl⟩, by decide, by decide, rfl, by decide⟩

theorem witness_MutatorsWriteOneElementOrNothing_refused : State.reset.peek (.mem 4096) = none ∧
    State.reset.peek (.v 16) = none ∧ Element.sp.limit ≤ 17 ∧ Element.dt.limit ≤ 256 ∧ Element.pc.limit ≤ 65536 ∧
    Element.dirty.limit ≤ 2 := ⟨rfl, rfl, by decide, by decide, by decide, by decide⟩

theorem witness_ProgramLoadIsAllOrNothing : (List.replicate 3584 (1 : Byte)).length ≤ 3584 ∧
    (List.replicate 3585 (1 : Byte)).length > 3584 := by
  rw [List.length_replicate, List.length_replicate]
  decide

theorem witness_BootRunsTheProgram : (List.replicate 3582 (0 : Byte)).length + 2 ≤ 3584 ∧
    decodeWord (BitVec.ofNat 16 ((0x12 : Byte).toNat * 256 + (0x00 : Byte).toNat)) = some (.jp 0x200) := by
  exact ⟨by rw [List.length_replicate], by decide⟩

theorem witness_SetKeyWritesOneLatch : (15 ≤ 15 ∧ 1 ≤ 1) ∧ (16 > 15 ∨ 0 > 1) ∧ (0 > 15 ∨ 2 > 1) := by decide

theorem witness_MemoryIsAnArrayOfBytes : Memory.wf [(4095, 1)] = true ∧ Memory.wf [] = true ∧ 4095 < 4096 ∧
    ∀ a, a < 4096 → Memory.read [] a = Memory.read [] a := ⟨by decide, rfl, by decide, fun _ _ => rfl⟩

theorem witness_MemoryPrimitivesCheckAndAccess : 4095 ≤ 4095 ∧ 4096 > 4095 ∧ 4094 + 1 ≤ 4095 ∧ 4095 + 1 > 4095 := by decide

theorem witness_JumpSetsTheCounter : (0x1FFF : Word) &&& 0xF000 = 0x1000 := by decide
theorem witness_CallPushesItsOwnAddress : (State.reset.setSp 15).sp.val < 16 ∧ (State.reset.setSp 16).sp.val = 16 := by decide
theorem witness_ReturnGoesPastTheCall : 0 < (State.reset.setSp 1).sp.val ∧ State.reset.sp.val = 0 := by decide
theorem witness_CallThenReturnRestores : (State.reset.setSp 15).sp.val < 16 := by decide
theorem witness_SkipOnImmediate : (0x3FFF : Word) &&& 0xF000 = 0x3000 ∧ (0x4FFF : Word) &&& 0xF000 = 0x4000 := by decide
theorem witness_SkipOnRegister : (0xF : Reg) = 0xF := rfl
theorem witness_ImmediateLoadAndAdd : (0x6FFF : Word) &&& 0xF000 = 0x6000 ∧ (0x7FFF : Word) &&& 0xF000 = 0x7000 := by decide
theorem witness_AddWritesSumThenCarry : (0xE : Reg) ≠ 0xF#4 := by decide
theorem witness_SubtractWritesDifferenceThenNotBorrow : (0xE : Reg) ≠ 0xF#4 := by decide
theorem witness_ShiftsPutOutOneBit : (0xE : Reg) ≠ 0xF#4 := by decide
theorem witness_IndexLoads : (0xAFFF : Word) &&& 0xF000 = 0xA000 ∧ (0xFF29 : Word) &&& 0xF0FF = 0xF029 := by decide
theorem witness_DecimalStoreWritesThreeDigits : (State.reset.setI 4093).i.toNat + 2 ≤ 4095 ∧
    (State.reset.setI 4094).i.toNat + 2 > 4095 := by decide
theorem witness_RegisterDumpStoresInOrder : (State.reset.setI 0xFF0).i.toNat + (0xF : Reg).toNat ≤ 4095 ∧
    (State.reset.setI 0xFF1).i.toNat + (0xF : Reg).toNat > 4095 := by decide
theorem witness_RegisterLoadFillsInOrder : (State.reset.setI 0xFFF).i.toNat + (0 : Reg).toNat ≤ 4095 ∧
    (State.reset.setI 0x1000).i.toNat + (0 : Reg).toNat > 4095 := by decide
theorem witness_ClearScreenBlanksEveryCell : (0x0FE0 : Word) &&& 0xF0FF = 0x00E0 := by decide
theorem witness_DrawXorsTheSprite : (0 : BitVec 4).toNat = 0 ∧ (State.reset.setI 0xFF1).i.toNat + (15 : BitVec 4).toNat - 1 ≤ 4095 ∧
    1 ≤ (15 : BitVec 4).toNat ∧ (State.reset.setI 0xFF2).i.toNat + (15 : BitVec 4).toNat - 1 > 4095 := by decide

/-- A one-row sprite 0xFF at address 0x300, drawn at (0, 0) by `DRW V0,V1,1` (S6). -/
def sprite : State := data 0x300 0x300 [0xFF]

theorem witness_DrawTwiceRestoresTheDisplay : (0 : Reg) ≠ 0xF#4 ∧ (1 : Reg) ≠ 0xF#4 ∧
    ∃ t u, exec (.drw 0 1 1) sprite = .next t ∧ exec (.drw 0 1 1) t = .next u ∧ t.disp.row 0 = 0xFF ∧ u.getV 0xF = 1 :=
  ⟨by decide, by decide, _, _, rfl, rfl, by decide +kernel, by decide +kernel⟩

theorem witness_DrawTwiceRestoresTheDisplay_blank : ∀ k, k < 2048 → sprite.disp.cell k = false := by
  intro k _
  simp only [Display.cell, Display.row, sprite, data, State.setMem, State.setI, State.reset, Vector.getElem?_replicate]
  split <;> simp

theorem witness_DrawOffGridOrOnBlankDoesNotCollide : (∃ t, exec (.drw 0 1 1) (sprite.setV 0 64) = .next t) ∧
    (sprite.setV 0 64).getV 0 = 64 ∧ (∃ t, exec (.drw 0 1 1) (sprite.setV 1 32) = .next t) ∧
    (sprite.setV 1 32).getV 1 = 32 ∧ (∃ t, exec (.drw 0 1 0) (State.reset.setI 0xFFFF) = .next t) ∧
    ∃ t, exec (.drw 0 1 1) sprite = .next t :=
  ⟨⟨_, rfl⟩, by decide, ⟨_, rfl⟩, by decide, ⟨_, rfl⟩, _, rfl⟩

theorem witness_KeyWaitRepeatsUntilALatchIsSet : (∀ k, k < 16 → State.reset.key k = false) ∧
    ∃ k, k < 16 ∧ (State.reset.setKeys 0x8000).key k = true := ⟨by decide, 15, by decide, by decide⟩

theorem witness_EveryKeyPickIsAParameter : (∃ pick : BitVec 16 → BitVec 4,
    ∀ keys : BitVec 16, keys ≠ 0 → keys.getLsbD (pick keys).toNat = true) ∧
    ∀ table, ∃ s : State, s.params.keyPick = table ∧ s.keys ≠ 0 :=
  ⟨⟨leastKey, fun keys h => (leastKey_spec keys h).1⟩,
    fun table => ⟨{ State.reset with params := { Params.default with keyPick := table }, keys := 1 }, rfl, (by decide : (1 : BitVec 16) ≠ 0)⟩⟩

theorem witness_TimerMoves : (0xFF07 : Word) &&& 0xF0FF = 0xF007 ∧ (0xFF15 : Word) &&& 0xF0FF = 0xF015 ∧
    (0xFF18 : Word) &&& 0xF0FF = 0xF018 := by decide

end Sys2Proof.Tests
end

section
/-! SUPPORT. A function that picks a latch (`KEY_PICK`, 00_scope.md R8) written out as the table the parameters hold
(log entry 5), and what `LD Vx,K` does under it. -/

namespace Sys2Proof.Machine

/-- The latch picked for every set of latches, listed set by set. -/
def keyPickTable (pick : BitVec 16 → BitVec 4) : List (BitVec 16 × BitVec 4) :=
  ((List.range (2 ^ 16)).map (BitVec.ofNat 16)).map fun keys => (keys, pick keys)

theorem mem_range_map_ofNat (keys : BitVec 16) : keys ∈ (List.range (2 ^ 16)).map (BitVec.ofNat 16) :=
  List.mem_map.mpr ⟨keys.toNat, List.mem_range.mpr keys.isLt, by rw [BitVec.ofNat_toNat, BitVec.setWidth_eq]⟩

@[simp] theorem lookup_keyPickTable (pick : BitVec 16 → BitVec 4) (keys : BitVec 16) :
    (keyPickTable pick).lookup keys = some (pick keys) :=
  List.lookup_graph pick (mem_range_map_ofNat keys)

/-- A latch the parameters name is picked where it is set. -/
theorem pickKey_of_lookup {p : Params} {keys : BitVec 16} {k : BitVec 4} (hk : p.keyPick.lookup keys = some k)
    (hset : keys.getLsbD k.toNat = true) : pickKey p keys = k := by
  simp only [pickKey, hk, hset, if_true]

/-- The index taken is what `V[x]` holds, whether or not the latch is cleared (45_keys_timers.md R162). -/
@[simp] theorem takeKey_getV (s : State) (x : Reg) (k : BitVec 4) : (s.takeKey x k).getV x = k.setWidth 8 := by
  rw [State.takeKey, advance_getV, getV_setV_same]

theorem exec_ldVxK_next (x : Reg) (s : State) (h : s.keys ≠ 0) :
    exec (.ldVxK x) s = .next (s.takeKey x (pickKey s.params s.keys)) :=
  if_neg h

/-- Settles O59: the table that lists the function at every set of latches is such a value of the parameter. -/
theorem everyKeyPickIsAParameter : Obligations.EveryKeyPickIsAParameter := by
  intro pick hpick
  refine ⟨keyPickTable pick, fun x s htable hkeys => ⟨_, exec_ldVxK_next x s hkeys, ?_⟩⟩
  have hlookup : s.params.keyPick.lookup s.keys = some (pick s.keys) := by rw [htable, lookup_keyPickTable]
  rw [takeKey_getV, pickKey_of_lookup hlookup (hpick s.keys hkeys)]
  exact BitVec.toNat_setWidth_of_le (by decide)

end Sys2Proof.Machine
end

section
/-! SUPPORT. Which parts of the state an instruction reaches, and the one fact behind every claim that it neither reads
nor writes a part: a change of the state that leaves all parts an instruction reaches can be made before it or after
it (10_state.md R24, R27, R28, R30, R31; 20_memory.md R50). -/

namespace Sys2Proof.Machine

/-- The parts an instruction reads or writes, its fetch apart. -/
def reaches : Instr → List Part
  | .cls => [.pc, .disp, .dirty]
  | .ret | .call _ => [.pc, .stack, .sp]
  | .jp _ => [.pc]
  | .seImm _ _ | .sneImm _ _ | .seReg _ _ | .sneReg _ _ | .jpV0 _ => [.pc, .regs]
  | .ldImm _ _ | .addImm _ _ | .ldReg _ _ | .orReg _ _ | .andReg _ _ | .xorReg _ _ => [.pc, .regs]
  | .addReg _ _ | .subReg _ _ | .shr _ | .subnReg _ _ | .shl _ => [.pc, .regs]
  | .rnd _ _ => [.pc, .regs, .draws]
  | .drw _ _ _ => [.pc, .regs, .i, .mem, .disp, .dirty]
  | .skp _ | .sknp _ | .ldVxK _ => [.pc, .regs, .keys]
  | .ldVxDt _ | .ldDtVx _ => [.pc, .regs, .dt]
  | .ldStVx _ => [.pc, .regs, .st]
  | .ldI _ => [.pc, .i]
  | .addI _ | .ldF _ => [.pc, .regs, .i]
  | .ldB _ | .dumpRegs _ | .loadRegs _ => [.pc, .regs, .i, .mem]

/-- A change of the state leaves a part: the part reads as before, and may be written before the change or after. -/
def Leaves (f : State → State) : Part → Prop
  | .regs => ∀ s, (f s).v = s.v ∧ ∀ a, f (s.setRegs a) = (f s).setRegs a
  | .i => ∀ s, (f s).i = s.i ∧ ∀ a, f (s.setI a) = (f s).setI a
  | .pc => ∀ s, (f s).pc = s.pc ∧ ∀ a, f (s.setPc a) = (f s).setPc a
  | .stack => ∀ s, (f s).stack = s.stack ∧ ∀ a, f (s.setStack a) = (f s).setStack a
  | .sp => ∀ s, (f s).sp = s.sp ∧ ∀ a, f (s.setSp a) = (f s).setSp a
  | .dt => ∀ s, (f s).dt = s.dt ∧ ∀ a, f (s.setDt a) = (f s).setDt a
  | .st => ∀ s, (f s).st = s.st ∧ ∀ a, f (s.setSt a) = (f s).setSt a
  | .disp => ∀ s, (f s).disp = s.disp ∧ ∀ a, f (s.setDisp a) = (f s).setDisp a
  | .dirty => ∀ s, (f s).dirty = s.dirty ∧ ∀ a, f (s.setDirty a) = (f s).setDirty a
  | .keys => ∀ s, (f s).keys = s.keys ∧ ∀ a, f (s.setKeys a) = (f s).setKeys a
  | .mem => ∀ s, (f s).mem = s.mem ∧ ∀ a, f (s.setMem a) = (f s).setMem a
  | .draws => ∀ s, (f s).draws = s.draws ∧ ∀ a, f (s.setDraws a) = (f s).setDraws a

/-- The parameters an instruction can depend on agree: those of the two instructions that take a latch (R160, R162). -/
def SameKeyRules (p q : Params) : Prop :=
  p.skpClearsLatch = q.skpClearsLatch ∧ p.waitKeyClearsLatch = q.waitKeyClearsLatch ∧ p.keyPick = q.keyPick

/-- A change of the state that an instruction does not notice: it leaves every part the instruction reaches, and the
parameters that say how latches are taken where it reaches those. -/
def Unnoticed (f : State → State) (i : Instr) : Prop :=
  (∀ p ∈ reaches i, Leaves f p) ∧ (Part.keys ∈ reaches i → ∀ s, SameKeyRules (f s).params s.params)

theorem mapNext_orRaise {α : Type} (f : State → State) (e : Except Fault α) (k : α → Result) :
    mapNext f (orRaise e k) = orRaise e fun a => mapNext f (k a) := by
  cases e <;> rfl

theorem pickKey_congr {p q : Params} (h : p.keyPick = q.keyPick) (keys : BitVec 16) : pickKey p keys = pickKey q keys := by
  rw [pickKey, pickKey, h]

section
variable {f : State → State}

theorem Leaves.getV (h : Leaves f .regs) (s : State) (x : Reg) : (f s).getV x = s.getV x := by
  rw [State.getV, State.getV, (h s).1]

theorem Leaves.setV (h : Leaves f .regs) (s : State) (x : Reg) (b : Byte) : f (s.setV x b) = (f s).setV x b := by
  have hw : f (s.setV x b) = (f s).setRegs (s.v.set x.toNat b x.isLt) := (h s).2 _
  rw [hw, ← (h s).1]
  rfl

theorem Leaves.setResultAndFlag (h : Leaves f .regs) (s : State) (x : Reg) (a b : Byte) :
    f (s.setResultAndFlag x a b) = (f s).setResultAndFlag x a b := by
  rw [State.setResultAndFlag, h.setV, h.setV]
  rfl

theorem Leaves.regsUpTo (h : Leaves f .regs) (s : State) (x : Reg) : (f s).regsUpTo x = s.regsUpTo x := by
  rw [State.regsUpTo, State.regsUpTo, (h s).1]

theorem Leaves.key (h : Leaves f .keys) (s : State) (k : Nat) : (f s).key k = s.key k := by
  rw [State.key, State.key, (h s).1]

theorem Leaves.advance (h : Leaves f .pc) (s : State) : f s.advance = (f s).advance := by
  rw [State.advance, State.advance, (h s).1, (h s).2]

theorem Leaves.skipIf (h : Leaves f .pc) (s : State) (c : Bool) : f (s.skipIf c) = (f s).skipIf c := by
  rw [State.skipIf, State.skipIf, (h s).1, (h s).2]

theorem Leaves.push (hk : Leaves f .stack) (hs : Leaves f .sp) (s : State) (a : Word) :
    (f s).push a = (s.push a).map f := by
  unfold State.push
  simp only [(hs s).1, (hk s).1]
  split
  · simp only [Except.map, (hs _).2, (hk _).2]
  · rfl

theorem Leaves.pop (hk : Leaves f .stack) (hs : Leaves f .sp) (s : State) :
    (f s).pop = s.pop.map fun p => (p.1, f p.2) := by
  unfold State.pop
  simp only [(hs s).1, (hk s).1]
  split
  · rfl
  · simp only [Except.map, (hs _).2]

end

/-- An instruction runs the same before and after a change it does not notice. -/
theorem exec_mapNext {f : State → State} {i : Instr} (h : Unnoticed f i) (s : State) :
    exec i (f s) = mapNext f (exec i s) := by
  obtain ⟨hp, hk⟩ := h
  have pc : Leaves f .pc := hp .pc (by cases i <;> simp [reaches])
  cases i
  case cls =>
    have disp : Leaves f .disp := hp _ (by simp [reaches])
    have dirty : Leaves f .dirty := hp _ (by simp [reaches])
    simp only [exec, execCls, mapNext_next, pc.advance, (dirty _).2, (disp _).2]
  case ret =>
    have stack : Leaves f .stack := hp _ (by simp [reaches])
    have sp : Leaves f .sp := hp _ (by simp [reaches])
    simp only [exec, execRet, mapNext_orRaise, mapNext_next, Leaves.pop stack sp, (pc _).2]
    cases s.pop <;> rfl
  case call nnn =>
    have stack : Leaves f .stack := hp _ (by simp [reaches])
    have sp : Leaves f .sp := hp _ (by simp [reaches])
    simp only [exec, execCall, mapNext_orRaise, mapNext_next, Leaves.push stack sp, (pc _).1, (pc _).2]
    cases s.push s.pc <;> rfl
  case jp nnn => simp only [exec, execJp, mapNext_next, (pc _).2]
  case ldI nnn =>
    have i : Leaves f .i := hp _ (by simp [reaches])
    simp only [exec, execLdI, mapNext_next, pc.advance, (i _).2]
  all_goals have regs : Leaves f .regs := hp _ (by simp [reaches])
  case seImm | sneImm | seReg | sneReg | jpV0 =>
    simp only [exec, execSeImm, execSneImm, execSeReg, execSneReg, execJpV0, mapNext_next, pc.skipIf, (pc _).2, regs.getV]
  case ldImm | addImm | ldReg | orReg | andReg | xorReg | addReg | subReg | shr | subnReg | shl =>
    simp only [exec, execLdImm, execAddImm, execLdReg, execOrReg, execAndReg, execXorReg, execAddReg, execSubReg, execShr,
      execSubnReg, execShl, mapNext_next, pc.advance, regs.getV, regs.setV, regs.setResultAndFlag]
  case rnd x nn =>
    have draws : Leaves f .draws := hp _ (by simp [reaches])
    simp only [exec, execRnd, State.rndWith, mapNext_next, (draws _).1, (draws _).2, pc.advance, regs.setV]
  case ldVxDt | ldDtVx =>
    have dt : Leaves f .dt := hp _ (by simp [reaches])
    simp only [exec, execLdVxDt, execLdDtVx, mapNext_next, pc.advance, regs.getV, regs.setV, (dt _).1, (dt _).2]
  case ldStVx x =>
    have st : Leaves f .st := hp _ (by simp [reaches])
    simp only [exec, execLdStVx, mapNext_next, pc.advance, regs.getV, (st _).2]
  case skp x =>
    have keys : Leaves f .keys := hp _ (by simp [reaches])
    obtain ⟨hclear, -, -⟩ := hk (by simp [reaches]) s
    simp only [exec, execSkp, keys.key, regs.getV, hclear, (keys s).1]
    split
    · split <;> simp only [mapNext_next, pc.skipIf, (keys _).2]
    · simp only [mapNext_next, pc.skipIf]
  case sknp x =>
    have keys : Leaves f .keys := hp _ (by simp [reaches])
    simp only [exec, execSknp, mapNext_next, pc.skipIf, keys.key, regs.getV]
  case ldVxK x =>
    have keys : Leaves f .keys := hp _ (by simp [reaches])
    obtain ⟨-, hclear, hpick⟩ := hk (by simp [reaches]) s
    simp only [exec, execLdVxK, State.takeKey, (keys s).1, hclear, pickKey_congr hpick]
    split
    · rfl
    · split <;> simp only [mapNext_next, pc.advance, regs.setV, (keys _).2]
  all_goals have i : Leaves f .i := hp _ (by simp [reaches])
  case addI | ldF => simp only [exec, execAddI, execLdF, mapNext_next, pc.advance, regs.getV, (i _).1, (i _).2]
  all_goals have mem : Leaves f .mem := hp _ (by simp [reaches])
  case ldB | dumpRegs =>
    simp only [exec, execLdB, execDumpRegs, mapNext_orRaise, mapNext_next, (i _).1, (mem _).1, (mem _).2, pc.advance,
      regs.getV, regs.regsUpTo]
  case loadRegs x =>
    simp only [exec, execLoadRegs, mapNext_orRaise, mapNext_next, (i _).1, (mem _).1, pc.advance, (regs _).1, (regs _).2]
  case drw x y n =>
    have disp : Leaves f .disp := hp _ (by simp [reaches])
    have dirty : Leaves f .dirty := hp _ (by simp [reaches])
    simp only [exec, execDrw, mapNext_orRaise, mapNext_next, State.drawSprite, (i _).1, (mem _).1, regs.getV, (disp _).1,
      pc.advance, (dirty _).2, regs.setV, (disp _).2]

end Sys2Proof.Machine
end

section
/-! SUPPORT. The parts an instruction does not reach, one lemma for all of them: it does the same whatever they hold, and
leaves them. -/

namespace Sys2Proof.Machine

/-- The state with one part taken from another state. -/
def State.withPart (u : State) (p : Part) (s : State) : State :=
  match p with
  | .regs => s.setRegs u.v
  | .i => s.setI u.i
  | .pc => s.setPc u.pc
  | .stack => s.setStack u.stack
  | .sp => s.setSp u.sp
  | .dt => s.setDt u.dt
  | .st => s.setSt u.st
  | .disp => s.setDisp u.disp
  | .dirty => s.setDirty u.dirty
  | .keys => s.setKeys u.keys
  | .mem => s.setMem u.mem
  | .draws => s.setDraws u.draws

theorem withPart_self (s : State) (p : Part) : s.withPart p s = s := by cases p <;> rfl

@[simp] theorem withPart_params (u s : State) (p : Part) : (u.withPart p s).params = s.params := by cases p <;> rfl

/-- Replacing one part leaves every other: no setter of another part touches it. -/
theorem leaves_withPart (u : State) {p q : Part} (h : q ≠ p) : Leaves (u.withPart p) q := by
  cases p <;> cases q <;> simp at h <;> exact fun _ => ⟨rfl, fun _ => rfl⟩

theorem unnoticed_withPart (u : State) {p : Part} {i : Instr} (h : p ∉ reaches i) : Unnoticed (u.withPart p) i :=
  ⟨fun _ hq => leaves_withPart u fun e => h (e ▸ hq), fun _ s => by simp [SameKeyRules]⟩

/-- An instruction does the same whatever a part holds that it does not reach. -/
theorem exec_withPart (u s : State) {p : Part} {i : Instr} (h : p ∉ reaches i) :
    exec i (u.withPart p s) = mapNext (u.withPart p) (exec i s) :=
  exec_mapNext (unnoticed_withPart u h) s

/-- An unnoticed change that the state already has is one the next state has. -/
theorem exec_next_fixes {f : State → State} {i : Instr} {s t : State} (hf : Unnoticed f i) (hs : f s = s)
    (h : exec i s = .next t) : f t = t := by
  have := exec_mapNext hf s
  rw [hs, h, mapNext_next] at this
  exact (Host.Outcome.next.inj this).symm

/-- An instruction leaves a part it does not reach. -/
theorem exec_keeps {p : Part} {i : Instr} {s t : State} (hp : p ∉ reaches i) (h : exec i s = .next t) :
    s.withPart p t = t :=
  exec_next_fixes (unnoticed_withPart s hp) (withPart_self s p) h

theorem stack_sp_not_reached {i : Instr} (hret : i ≠ .ret) (hcall : ∀ nnn, i ≠ .call nnn) :
    Part.stack ∉ reaches i ∧ Part.sp ∉ reaches i := by
  cases i <;> simp [reaches] at hret hcall ⊢

theorem dirty_not_reached {i : Instr} (hcls : i ≠ .cls) (hdrw : ∀ x y n, i ≠ .drw x y n) : Part.dirty ∉ reaches i := by
  cases i <;> simp [reaches] at hcls hdrw ⊢

theorem dt_not_reached {i : Instr} (hwrite : ∀ x, i ≠ .ldDtVx x) (hread : ∀ x, i ≠ .ldVxDt x) : Part.dt ∉ reaches i := by
  cases i <;> simp [reaches] at hwrite hread ⊢

theorem st_not_reached {i : Instr} (hwrite : ∀ x, i ≠ .ldStVx x) : Part.st ∉ reaches i := by
  cases i <;> simp [reaches] at hwrite ⊢

theorem i_not_reached {i : Instr} (hldI : ∀ nnn, i ≠ .ldI nnn) (hdrw : ∀ x y n, i ≠ .drw x y n)
    (hmem : ∀ x, i ≠ .addI x ∧ i ≠ .ldF x ∧ i ≠ .ldB x ∧ i ≠ .dumpRegs x ∧ i ≠ .loadRegs x) : Part.i ∉ reaches i := by
  cases i <;> simp [reaches] at hldI hdrw hmem ⊢

end Sys2Proof.Machine
end

section
/-! SUPPORT. What the instructions that branch can do, said once: where `exec` goes on, and to which state. -/

namespace Sys2Proof.Machine

variable {s t : State}

theorem exec_ret_eq_next : exec .ret s = .next t ↔ s.sp.val ≠ 0 ∧
    t = (s.setSp ⟨s.sp.val - 1, by have := s.sp.isLt; omega⟩).setPc (s.slot (s.sp.val - 1) + 2) := by
  by_cases h : s.sp.val = 0
  · simp [exec, execRet_fault s h, h]
  · simp [exec, execRet_next s h, h, eq_comm]

theorem exec_call_eq_next {nnn : Addr12} : exec (.call nnn) s = .next t ↔ ∃ h : s.sp.val < 16,
    t = ((s.setStack (s.stack.set s.sp.val s.pc h)).setSp ⟨s.sp.val + 1, Nat.succ_lt_succ h⟩).setPc (zext12 nnn) := by
  by_cases h : s.sp.val < 16
  · simp [exec, execCall_next s nnn h, h, eq_comm]
  · simp [exec, execCall_fault s nnn (by have := s.sp.isLt; omega), h]

/-- A checked operation followed by a plain change of the state. -/
theorem orRaise_next_value {α : Type} (e : Except Fault α) (k : α → State) (t : State) :
    (orRaise e fun a => .next (k a)) = .next t ↔ ∃ a, e = .ok a ∧ t = k a := by
  rw [orRaise_next]
  simp only [Host.Outcome.next.injEq, eq_comm]

/-- `SKP` skips on the latch tested; the latches are as before, or, where the parameter says so, without it (R160). -/
theorem exec_skp_eq_next {x : Reg} (h : exec (.skp x) s = .next t) :
    ∃ keys, t = (s.setKeys keys).skipIf (s.key (keyIndex (s.getV x))) ∧
      (keys = s.keys ∨ s.params.skpClearsLatch = true ∧ keys = putKey s.keys (keyIndex (s.getV x)) false) := by
  simp only [exec] at h
  cases hk : s.key (keyIndex (s.getV x))
  · rw [execSkp_not s x hk] at h
    exact ⟨s.keys, (Host.Outcome.next.inj h).symm, .inl rfl⟩
  · cases hp : s.params.skpClearsLatch
    · rw [execSkp_taken s x hk hp] at h
      exact ⟨s.keys, (Host.Outcome.next.inj h).symm, .inl rfl⟩
    · rw [execSkp_clear s x hk hp] at h
      exact ⟨_, (Host.Outcome.next.inj h).symm, .inr ⟨rfl, rfl⟩⟩

/-- `LD Vx,K` waits with no latch set, and else takes the latch picked (R162). -/
theorem exec_ldVxK_eq_next {x : Reg} (h : exec (.ldVxK x) s = .next t) :
    s.keys = 0 ∧ t = s ∨ s.keys ≠ 0 ∧ t = s.takeKey x (pickKey s.params s.keys) := by
  by_cases hk : s.keys = 0
  · rw [exec, execLdVxK_wait s x hk] at h
    exact .inl ⟨hk, (Host.Outcome.next.inj h).symm⟩
  · rw [exec_ldVxK_next x s hk] at h
    exact .inr ⟨hk, (Host.Outcome.next.inj h).symm⟩

variable (s)

theorem takeKey_keys (x : Reg) (k : BitVec 4) :
    (s.takeKey x k).keys = if s.params.waitKeyClearsLatch then putKey s.keys k.toNat false else s.keys := by
  unfold State.takeKey
  split <;> rfl

@[simp] theorem takeKey_pc (x : Reg) (k : BitVec 4) : (s.takeKey x k).pc = s.pc + 2 := by
  unfold State.takeKey
  split <;> rfl

@[simp] theorem takeKey_params (x : Reg) (k : BitVec 4) : (s.takeKey x k).params = s.params := by
  unfold State.takeKey
  split <;> rfl

theorem takeKey_getV_ne (x r : Reg) (k : BitVec 4) (h : r ≠ x) : (s.takeKey x k).getV r = s.getV r := by
  unfold State.takeKey
  split <;> simp [h]

@[simp] theorem drawSprite_dirty (x y : Reg) (rows : List Byte) : (s.drawSprite x y rows).dirty = true := rfl

theorem drawSprite_getV_ne (x y r : Reg) (rows : List Byte) (h : r ≠ flagReg) :
    (s.drawSprite x y rows).getV r = s.getV r := by
  simp [State.drawSprite, h]

/-- Registers past the bytes loaded from register 0 up read as before (R145). -/
theorem setRegs_loadFrom_getV (us : List Byte) (r : Reg) (h : us.length ≤ r.toNat) :
    (s.setRegs (loadFrom s.v 0 us)).getV r = s.getV r := by
  have := loadFrom_getElem us s.v 0 r.toNat r.isLt
  rwa [if_neg (by omega)] at this

/-- Some latch is set exactly where the sixteen are not all 0. -/
theorem exists_key_iff : (∃ k < 16, s.key k = true) ↔ s.keys ≠ 0 := by
  constructor
  · rintro ⟨k, -, hk⟩ h0
    simp [State.key, h0] at hk
  · intro h0
    exact ⟨_, (leastKey s.keys).isLt, (leastKey_spec s.keys h0).1⟩

theorem zext12_eq (nnn : Addr12) : zext12 nnn = BitVec.ofNat 16 nnn.toNat := (BitVec.ofNat_toNat 16 nnn).symm

theorem offsetTarget_eq (nnn : Addr12) (b : Byte) : offsetTarget nnn b = BitVec.ofNat 16 (nnn.toNat + b.toNat) := by
  rw [BitVec.ofNat_add, BitVec.ofNat_toNat, BitVec.ofNat_toNat]
  rfl

end Sys2Proof.Machine
end

section
/-! SUPPORT. Settles the tables of the program counter and of the registers written (10_state.md R26, R23). -/

namespace Sys2Proof.Machine

/-- Settles O13, instruction by instruction along R26's table. -/
theorem programCounterTable : Obligations.ProgramCounterTable := by
  intro i s t h
  cases i
  case jp nnn => cases h; exact zext12_eq nnn
  case jpV0 nnn => cases h; exact offsetTarget_eq nnn _
  case call nnn =>
    obtain ⟨-, rfl⟩ := exec_call_eq_next.mp h
    exact zext12_eq nnn
  case ret =>
    obtain ⟨-, rfl⟩ := exec_ret_eq_next.mp h
    rfl
  case seImm | seReg => cases h; simp [pcAfter]
  case sneImm | sneReg => cases h; simp [pcAfter, bne]
  case sknp x =>
    cases h
    cases hk : s.key ((s.getV x).toNat % 16) <;> simp [pcAfter, keyIndex_eq, hk]
  case skp x =>
    obtain ⟨keys, rfl, -⟩ := exec_skp_eq_next h
    simp only [pcAfter, skipIf_pc, setKeys_pc, keyIndex_eq]
  case ldVxK x =>
    simp only [pcAfter, exists_key_iff]
    obtain ⟨h0, rfl⟩ | ⟨h0, rfl⟩ := exec_ldVxK_eq_next h
    · rw [if_neg (not_not.mpr h0)]
    · rw [if_pos h0, takeKey_pc]
  case drw | ldB | dumpRegs | loadRegs =>
    obtain ⟨_, -, rfl⟩ := (orRaise_next_value _ _ t).mp h
    rfl
  all_goals cases h; rfl

/-- Settles O14, instruction by instruction along R23's table. -/
theorem registersWrittenTable : Obligations.RegistersWrittenTable := by
  intro i s t r h hr
  cases i
  case ldImm | addImm | ldReg | orReg | andReg | xorReg | rnd | ldVxDt =>
    cases h
    exact getV_setV_ne s _ r _ (by simpa [mayWrite] using hr)
  case addReg | subReg | shr | subnReg | shl =>
    cases h
    simp only [mayWrite, Bool.or_eq_false_iff, beq_eq_false_iff_ne] at hr
    exact setResultAndFlag_other s _ r _ _ hr.1 hr.2
  case drw x y n =>
    obtain ⟨rows, -, rfl⟩ := (orRaise_next_value _ _ t).mp h
    exact drawSprite_getV_ne s x y r rows (by simpa [mayWrite] using hr)
  case ldVxK x =>
    obtain ⟨-, rfl⟩ | ⟨-, rfl⟩ := exec_ldVxK_eq_next h
    · rfl
    · exact takeKey_getV_ne s x r _ (by simpa [mayWrite] using hr)
  case loadRegs x =>
    obtain ⟨us, hload, rfl⟩ := (orRaise_next_value _ _ t).mp h
    obtain ⟨-, rfl⟩ := (load_ok _ _ _ _).mp hload
    refine setRegs_loadFrom_getV s _ r ?_
    simpa [mayWrite] using hr
  case ret =>
    obtain ⟨-, rfl⟩ := exec_ret_eq_next.mp h
    rfl
  case call nnn =>
    obtain ⟨-, rfl⟩ := exec_call_eq_next.mp h
    rfl
  case skp x =>
    obtain ⟨keys, rfl, -⟩ := exec_skp_eq_next h
    rfl
  case ldB | dumpRegs =>
    obtain ⟨_, -, rfl⟩ := (orRaise_next_value _ _ t).mp h
    rfl
  all_goals cases h; rfl

end Sys2Proof.Machine
end

section
/-! SUPPORT. Settles the statements that an instruction neither reads nor writes a part, from the one lemma on the parts
it does not reach. -/

namespace Sys2Proof.Machine

/-- Settles O15: the stack and `SP` are replaced one after the other, and no other instruction reaches either. -/
theorem stackReachedOnlyByCallAndRet : Obligations.StackReachedOnlyByCallAndRet := by
  intro i s k n hret hcall
  obtain ⟨hstack, hsp⟩ := stack_sp_not_reached hret hcall
  have hk : exec i (s.setStack k) = mapNext (·.setStack k) (exec i s) := exec_withPart (s.setStack k) s hstack
  have hn : exec i ((s.setStack k).setSp n) = mapNext (·.setSp n) (exec i (s.setStack k)) :=
    exec_withPart (s.setSp n) (s.setStack k) hsp
  rw [hn, hk]
  cases exec i s <;> rfl

/-- Settles O17: the timers are parts the other instructions do not reach; the moves are read off. -/
theorem timersReachedOnlyByTheirMoves : Obligations.TimersReachedOnlyByTheirMoves := by
  refine ⟨fun i s b hwrite hread => exec_withPart (s.setDt b) s (dt_not_reached hwrite hread), fun x s t h => ?_,
    fun i s b hwrite => exec_withPart (s.setSt b) s (st_not_reached hwrite), fun x s b => ⟨rfl, rfl⟩⟩
  cases h
  rfl

/-- Only the three loads of `I` change it: the memory instructions read it, the others do not reach it (R24). -/
theorem exec_keeps_i {i : Instr} {s t : State} (hldI : ∀ nnn, i ≠ .ldI nnn) (hx : ∀ x, i ≠ .addI x ∧ i ≠ .ldF x)
    (h : exec i s = .next t) : t.i = s.i := by
  cases i
  case ldI nnn => exact absurd rfl (hldI nnn)
  case addI x => exact absurd rfl (hx x).1
  case ldF x => exact absurd rfl (hx x).2
  case drw | ldB | dumpRegs | loadRegs =>
    obtain ⟨_, -, rfl⟩ := (orRaise_next_value _ _ t).mp h
    rfl
  all_goals exact (congrArg State.i (exec_keeps (p := .i) (by simp [reaches]) h)).symm

/-- Settles O19. -/
theorem indexRegisterReachedOnlyByItsInstructions : Obligations.IndexRegisterReachedOnlyByItsInstructions :=
  ⟨fun _ s a hldI hdrw hmem => exec_withPart (s.setI a) s (i_not_reached hldI hdrw hmem),
    fun _ _ _ hldI hx h => exec_keeps_i hldI hx h, fun _ _ _ _ => ⟨rfl, rfl⟩⟩

/-- What an instruction can do to the latches: nothing, or clear one where a parameter says so (R31, R160, R162). -/
theorem exec_keys {i : Instr} {s t : State} (h : exec i s = .next t) :
    t.keys = s.keys ∨ ∃ k < 16, t.keys = putKey s.keys k false ∧
      (s.params.skpClearsLatch = true ∨ s.params.waitKeyClearsLatch = true) := by
  cases i
  case skp x =>
    obtain ⟨keys, rfl, hkeys | ⟨hp, hkeys⟩⟩ := exec_skp_eq_next h
    · exact .inl hkeys
    · exact .inr ⟨_, keyIndex_lt _, hkeys, .inl hp⟩
  case ldVxK x =>
    obtain ⟨-, rfl⟩ | ⟨-, rfl⟩ := exec_ldVxK_eq_next h
    · exact .inl rfl
    · rw [takeKey_keys]
      split
      · rename_i hp
        exact .inr ⟨_, (pickKey s.params s.keys).isLt, rfl, .inr hp⟩
      · exact .inl rfl
  case sknp x => cases h; exact .inl rfl
  all_goals exact .inl (congrArg State.keys (exec_keeps (p := .keys) (by simp [reaches]) h)).symm

/-- Settles O20. -/
theorem latchesNeverSetByInstructions : Obligations.LatchesNeverSetByInstructions := by
  intro i s t h
  obtain hkeys | ⟨k, hk, hkeys, hp⟩ := exec_keys h
  · exact ⟨fun j hj => by rwa [State.key, hkeys] at hj, fun _ _ => hkeys⟩
  · refine ⟨fun j hj => ?_, fun hskp hwait => ?_⟩
    · rw [State.key, hkeys, putKey_getLsbD _ _ _ _ hk] at hj
      split at hj
      · exact absurd hj Bool.false_ne_true
      · exact hj
    · simp [hskp, hwait] at hp

end Sys2Proof.Machine
end

section
/-! SUPPORT. The occupied stack slots as a list (10_state.md R27). -/

namespace Sys2Proof.Machine

variable (s : State)

/-- The occupied slots, oldest first. -/
def State.slots : List Word := (List.range s.sp.val).map s.slot

theorem slots_congr {s t : State} (hstack : t.stack = s.stack) (hsp : t.sp = s.sp) : t.slots = s.slots := by
  have hslot : t.slot = s.slot := funext fun k => by rw [State.slot, State.slot, hstack]
  rw [State.slots, State.slots, hslot, hsp]

/-- A slot after a write to one. -/
theorem slot_setStack_set (k j : Nat) (a : Word) (h : k < 16) :
    (s.setStack (s.stack.set k a h)).slot j = if j = k then a else s.slot j := by
  by_cases hj : j = k
  · subst hj
    simp [State.slot, h]
  · simp [State.slot, hj, Ne.symm hj]

theorem exec_call_slots {nnn : Addr12} {t : State} (h : exec (.call nnn) s = .next t) :
    t.slots = s.slots ++ [s.pc] := by
  obtain ⟨hsp, rfl⟩ := exec_call_eq_next.mp h
  have hslot := fun k => slot_setStack_set s s.sp.val k s.pc hsp
  simp only [State.slots, setPc_sp, setSp_sp, List.range_succ, List.map_append, List.map_cons, List.map_nil]
  refine congrArg₂ _ (List.map_congr_left fun k hk => ?_) (congrArg (fun a => [a]) ?_)
  · exact (hslot k).trans (if_neg (Nat.ne_of_lt (List.mem_range.mp hk)))
  · exact (hslot _).trans (if_pos rfl)

theorem exec_ret_slots {t : State} (h : exec .ret s = .next t) :
    s.slots = t.slots ++ [s.slot (s.sp.val - 1)] := by
  obtain ⟨hsp, rfl⟩ := exec_ret_eq_next.mp h
  obtain ⟨n, hn⟩ := Nat.exists_eq_succ_of_ne_zero hsp
  simp only [State.slots, setPc_sp, setSp_sp, hn, Nat.succ_eq_add_one, Nat.add_sub_cancel, List.range_succ,
    List.map_append, List.map_cons, List.map_nil]
  rfl

theorem exec_keeps_slots {i : Instr} {t : State} (hret : i ≠ .ret) (hcall : ∀ nnn, i ≠ .call nnn)
    (h : exec i s = .next t) : t.slots = s.slots := by
  obtain ⟨hstack, hsp⟩ := stack_sp_not_reached hret hcall
  exact slots_congr (congrArg State.stack (exec_keeps hstack h)).symm (congrArg State.sp (exec_keeps hsp h)).symm

/-- Settles O27. -/
theorem stackIsLastInFirstOut : Obligations.StackIsLastInFirstOut := by
  intro i s t h slots
  refine ⟨?_, ?_, fun hret hcall => exec_keeps_slots s hret hcall h⟩
  · rintro nnn rfl
    exact exec_call_slots s h
  · rintro rfl
    exact ⟨_, exec_ret_slots s h, programCounterTable _ _ _ h⟩

/-- Settles O24. -/
theorem resetMeetsInvariants : Obligations.ResetMeetsInvariants :=
  ⟨rfl, by decide, fun k hk => absurd hk (Nat.not_lt_zero k)⟩

end Sys2Proof.Machine
end

section
/-! SUPPORT. R25's bound on `PC` as an invariant: from where an instruction can leave `PC` and which slots it fills. -/

namespace Sys2Proof.Machine

/-- The bound on the slots, said of the list of the occupied ones. -/
theorem codeBounded_iff (s : State) :
    s.CodeBounded ↔ s.pc.toNat ≤ 0x10FE ∧ ∀ a ∈ s.slots, a.toNat ≤ 4094 := by
  simp [State.CodeBounded, State.slots]

/-- An instruction moves `PC` by at most 4, jumps to at most 0x10FE, or returns past an occupied slot (R26). -/
theorem pcAfter_cases (i : Instr) (s : State) :
    pcAfter i s ∈ [s.pc, s.pc + 2, s.pc + 4] ∨ (pcAfter i s).toNat ≤ 0x10FE ∨
      i = .ret ∧ pcAfter i s = s.slot (s.sp.val - 1) + 2 := by
  cases i
  case ret => exact .inr (.inr ⟨rfl, rfl⟩)
  case jp nnn | call nnn =>
    have := nnn.isLt
    refine .inr (.inl ?_)
    simp only [pcAfter, BitVec.toNat_ofNat]
    omega
  case jpV0 nnn =>
    have := nnn.isLt
    have := (s.getV 0#4).isLt
    refine .inr (.inl ?_)
    simp only [pcAfter, BitVec.toNat_ofNat]
    omega
  case seImm | sneImm | seReg | sneReg | skp | sknp | ldVxK =>
    refine .inl ?_
    simp only [pcAfter]
    split <;> simp
  all_goals exact .inl (by simp [pcAfter])

theorem exec_pc_le {i : Instr} {s t : State} (hpc : s.pc.toNat ≤ 4094) (hslots : ∀ a ∈ s.slots, a.toNat ≤ 4094)
    (h : exec i s = .next t) : t.pc.toNat ≤ 0x10FE := by
  rw [programCounterTable i s t h]
  obtain hnext | hjump | ⟨rfl, hret⟩ := pcAfter_cases i s
  · simp only [List.mem_cons, List.not_mem_nil, or_false] at hnext
    bv_omega
  · exact hjump
  · have hlast : (s.slot (s.sp.val - 1)).toNat ≤ 4094 := hslots _ (by rw [exec_ret_slots s h]; simp)
    rw [hret]
    bv_omega

theorem exec_slots_le {i : Instr} {s t : State} (hpc : s.pc.toNat ≤ 4094) (hslots : ∀ a ∈ s.slots, a.toNat ≤ 4094)
    (h : exec i s = .next t) : ∀ a ∈ t.slots, a.toNat ≤ 4094 := by
  cases i
  case ret => exact fun a ha => hslots a (by rw [exec_ret_slots s h]; exact List.mem_append_left _ ha)
  case call nnn =>
    intro a ha
    rw [exec_call_slots s h, List.mem_append, List.mem_singleton] at ha
    obtain ha | rfl := ha
    · exact hslots a ha
    · exact hpc
  all_goals rwa [exec_keeps_slots s (by simp) (by simp) h]

/-- Settles O25: what is executed was fetched, so its address is at most 4094. -/
theorem stepKeepsCodeBound : Obligations.StepKeepsCodeBound := by
  intro s t hs h
  rw [codeBounded_iff] at hs ⊢
  obtain ⟨i, hfetch, hexec⟩ := (step_next s t).mp h
  have hpc : s.pc.toNat ≤ 4094 := by
    have := ((fetch_ok s i).mp hfetch).1
    simp only [memSize_eq] at this
    omega
  exact ⟨exec_pc_le hpc hs.2 hexec, exec_slots_le hpc hs.2 hexec⟩

end Sys2Proof.Machine
end

section
/-! SUPPORT. The canonical form of memory: what it lists is exactly where its bytes differ from the reset contents, so it
is determined by the bytes (10_state.md R32, R37 (e)). -/

namespace Sys2Proof.Machine

/-- An address below every listed one reads as the reset contents. -/
theorem read_of_not_listed {m : Memory} {a : Nat} (h : ∀ c ∈ m, c.1 ≠ a) : m.read a = Config.resetByte a := by
  induction m with
  | nil => rfl
  | cons c m ih => rw [read_cons, if_neg (h c (by simp)), ih fun d hd => h d (by simp [hd])]

/-- The first cell of a canonical form is the lowest address whose byte differs from the reset contents. -/
theorem wf_cons_read {m : Memory} {a : Nat} {u : Byte} (h : Memory.wf ((a, u) :: m) = true) :
    a < 4096 ∧ Memory.read ((a, u) :: m) a ≠ Config.resetByte a ∧
      ∀ b < a, Memory.read ((a, u) :: m) b = Config.resetByte b := by
  obtain ⟨⟨ha, hu, hall⟩, -⟩ := (wf_cons m a u).mp h
  refine ⟨ha, by rwa [read_cons, if_pos rfl], fun b hb => read_of_not_listed fun c hc => ?_⟩
  obtain rfl | hc := List.mem_cons.mp hc
  · exact Nat.ne_of_gt hb
  · exact Nat.ne_of_gt (hb.trans (hall c hc))

/-- The bytes of the rest of a canonical form. -/
theorem wf_cons_read_tail {m : Memory} {a : Nat} {u : Byte} (h : Memory.wf ((a, u) :: m) = true) (b : Nat) :
    m.read b = if b = a then Config.resetByte a else Memory.read ((a, u) :: m) b := by
  obtain ⟨⟨-, -, hall⟩, -⟩ := (wf_cons m a u).mp h
  split
  · subst b
    exact read_of_not_listed fun c hc => Nat.ne_of_gt (hall c hc)
  · rename_i hb
    rw [read_cons, if_neg (Ne.symm hb)]

/-- Canonical forms that hold the same bytes are equal: their first cells are the same lowest address that differs from
the reset contents. -/
theorem wf_ext : ∀ {m m' : Memory}, m.wf = true → m'.wf = true → (∀ a < 4096, m.read a = m'.read a) → m = m'
  | [], [], _, _, _ => rfl
  | [], (b, w) :: m', _, h', heq => by
    obtain ⟨hb, hread, -⟩ := wf_cons_read h'
    exact absurd (heq b hb).symm hread
  | (a, u) :: m, [], h, _, heq => by
    obtain ⟨ha, hread, -⟩ := wf_cons_read h
    exact absurd (heq a ha) hread
  | (a, u) :: m, (b, w) :: m', h, h', heq => by
    obtain ⟨ha, hread, hlow⟩ := wf_cons_read h
    obtain ⟨hb, hread', hlow'⟩ := wf_cons_read h'
    obtain hlt | rfl | hgt := Nat.lt_trichotomy a b
    · exact absurd ((heq a ha).trans (hlow' a hlt)) hread
    · have huw : u = w := by simpa [read_cons] using heq a ha
      have htail : m = m' := wf_ext ((wf_cons m a u).mp h).2 ((wf_cons m' a w).mp h').2 fun c hc => by
        rw [wf_cons_read_tail h, wf_cons_read_tail h', heq c hc]
      rw [huw, htail]
    · exact absurd ((heq b hb).symm.trans (hlow b hgt)) hread'

/-- Settles O36: the bytes are written one after the other into memory as reset leaves it. -/
theorem memoryIsAnArrayOfBytes : Obligations.MemoryIsAnArrayOfBytes := by
  refine ⟨fun f => ⟨Memory.writeBytes [] 0 ((List.range 4096).map f), ?_, fun a ha => ?_⟩,
    fun m m' h h' heq => wf_ext h h' heq, fun m a v h ha => ⟨wf_write m a v h ha, ?_, fun b hb => ?_⟩⟩
  · exact wf_writeBytes _ [] 0 rfl (.inr (by simp))
  · rw [read_writeBytes, if_pos (by simpa using ha)]
    simp [List.getD, ha]
  · rw [read_write, if_pos rfl]
  · rw [read_write, if_neg hb]

/-- An instruction keeps the canonical form: two store through the bounds check, the others do not write memory. -/
theorem exec_keeps_wf {i : Instr} {s t : State} (hs : s.mem.wf = true) (h : exec i s = .next t) : t.mem.wf = true := by
  cases i
  case ldB | dumpRegs =>
    obtain ⟨m, hstore, rfl⟩ := (orRaise_next_value _ _ t).mp h
    exact wf_store _ _ _ m hs hstore
  case drw | loadRegs =>
    obtain ⟨_, -, rfl⟩ := (orRaise_next_value _ _ t).mp h
    exact hs
  all_goals
    have hmem : t.mem = s.mem := (congrArg State.mem (exec_keeps (p := .mem) (by simp [reaches]) h)).symm
    rwa [hmem]

/-- Settles O22. -/
theorem stepKeepsMemoryForm : Obligations.StepKeepsMemoryForm := by
  intro s t hs h
  obtain ⟨i, -, hexec⟩ := (step_next s t).mp h
  exact exec_keeps_wf hs hexec

end Sys2Proof.Machine
end

section
/-! SUPPORT. No instruction changes the parameters (00_scope.md R8). -/

namespace Sys2Proof.Machine

/-- The state with other parameters. -/
def State.setParams (s : State) (p : Params) : State := { s with params := p }

theorem leaves_setParams (p : Params) (q : Part) : Leaves (·.setParams p) q := by
  cases q <;> exact fun _ => ⟨rfl, fun _ => rfl⟩

theorem exec_params {i : Instr} {s t : State} (h : exec i s = .next t) : t.params = s.params := by
  by_cases hkeys : Part.keys ∈ reaches i
  · cases i
    case skp x =>
      obtain ⟨keys, rfl, -⟩ := exec_skp_eq_next h
      rfl
    case sknp x => cases h; rfl
    case ldVxK x => obtain ⟨-, rfl⟩ | ⟨-, rfl⟩ := exec_ldVxK_eq_next h <;> simp
    all_goals exact absurd hkeys (by simp [reaches])
  · have hf : Unnoticed (·.setParams s.params) i := ⟨fun q _ => leaves_setParams _ q, fun hk => absurd hk hkeys⟩
    exact (congrArg State.params (exec_next_fixes hf rfl h)).symm

theorem step_params {s t : State} (h : step s = .next t) : t.params = s.params := by
  obtain ⟨i, -, hexec⟩ := (step_next s t).mp h
  exact exec_params hexec

end Sys2Proof.Machine
end

section
/-! SUPPORT. The elements of the state: which indexes name one, what a mutator writes, and what the accessors read after
it (10_state.md R20, R37, R38). -/

namespace Sys2Proof.Machine

/-- The index names an element (R20). -/
def Element.named : Element → Prop
  | .v k | .stack k | .key k => k < 16
  | .disp k => k < 2048
  | .mem a => a < 4096
  | .i | .pc | .sp | .dt | .st | .dirty => True

/-- The state with an element written, no check. -/
def State.written (s : State) (e : Element) (n : Nat) : State :=
  match e with
  | .v k => s.setV (BitVec.ofNat 4 k) (BitVec.ofNat 8 n)
  | .i => s.setI (BitVec.ofNat 16 n)
  | .pc => s.setPc (BitVec.ofNat 16 n)
  | .stack k => s.setStack (s.stack.setIfInBounds k (BitVec.ofNat 16 n))
  | .sp => s.setSp (Fin.ofNat 17 n)
  | .dt => s.setDt (BitVec.ofNat 8 n)
  | .st => s.setSt (BitVec.ofNat 8 n)
  | .disp k => s.setDisp (s.disp.setCell k (n == 1))
  | .dirty => s.setDirty (n == 1)
  | .key k => s.setKeys (putKey s.keys k (n == 1))
  | .mem a => s.setMem (s.mem.write a (BitVec.ofNat 8 n))

variable (s : State) {e : Element} {n : Nat}

/-- An accessor refuses exactly an index that names no element (R38). -/
theorem peek_eq_none : s.peek e = none ↔ ¬ e.named := by
  cases e <;> simp [State.peek, Element.named]

/-- A mutator takes effect exactly with an element and a value in its range, and writes that element (R38). -/
theorem poke_eq_some {t : State} : s.poke e n = some t ↔ e.named ∧ n < e.limit ∧ t = s.written e n := by
  cases e
  case sp =>
    by_cases h : n < 17
    · have hn : (⟨n, h⟩ : Fin 17) = Fin.ofNat 17 n := Fin.ext (Nat.mod_eq_of_lt h).symm
      simp [State.poke, Element.named, Element.limit, State.written, h, hn, eq_comm]
    · simp [State.poke, Element.limit, h]
  all_goals simp [State.poke, Element.named, Element.limit, State.written, and_assoc, eq_comm]

theorem poke_eq_none (h : s.peek e = none ∨ e.limit ≤ n) : s.poke e n = none := by
  rw [Option.eq_none_iff_forall_ne_some]
  intro t ht
  obtain ⟨hnamed, hlt, -⟩ := (poke_eq_some s).mp ht
  exact h.elim (fun hp => (peek_eq_none s).mp hp hnamed) (Nat.not_le_of_lt hlt)

/-- What an accessor answers is in the range of its element (R37). -/
theorem peek_lt_limit (h : s.peek e = some n) : n < e.limit := by
  cases e
  case i | pc | sp | dt | st =>
    obtain rfl := Option.some.inj h
    simp only [Element.limit]
    omega
  case dirty =>
    obtain rfl := Option.some.inj h
    exact Bool.toNat_lt _
  all_goals
    simp only [State.peek, Option.ite_none_right_eq_some, Option.some.injEq] at h
    obtain ⟨-, rfl⟩ := h
  case v | stack | mem =>
    simp only [Element.limit]
    omega
  case disp | key =>
    exact Bool.toNat_lt _

@[simp] theorem written_params : (s.written e n).params = s.params := by cases e <;> rfl
@[simp] theorem written_draws : (s.written e n).draws = s.draws := by cases e <;> rfl

theorem slot_setStack_setIfInBounds (k j : Nat) (a : Word) (h : k < 16) :
    (s.setStack (s.stack.setIfInBounds k a)).slot j = if j = k then a else s.slot j := by
  by_cases hj : j = k
  · subst hj
    simp [State.slot, h]
  · simp [State.slot, hj, Ne.symm hj]

theorem key_setKeys_putKey (k j : Nat) (b : Bool) (h : k < 16) :
    (s.setKeys (putKey s.keys k b)).key j = if j = k then b else s.key j :=
  putKey_getLsbD s.keys k j b h

theorem ofNat4_inj {j k : Nat} (hj : j < 16) (hk : k < 16) (h : BitVec.ofNat 4 j = BitVec.ofNat 4 k) : j = k := by
  bv_omega

theorem toNat_beq_one (h : n < 2) : (n == 1).toNat = n := by
  obtain rfl | rfl : n = 0 ∨ n = 1 := by omega
  · rfl
  · rfl

/-- An element reads as written. -/
theorem peek_written_same (hnamed : e.named) (hlt : n < e.limit) : (s.written e n).peek e = some n := by
  cases e <;> simp only [Element.named, Element.limit] at hnamed hlt <;> simp only [State.written, State.peek]
  case v k => rw [if_pos hnamed, getV_setV_same, BitVec.toNat_ofNat, Nat.mod_eq_of_lt hlt]
  case stack k =>
    rw [if_pos hnamed, slot_setStack_setIfInBounds s k k _ hnamed, if_pos rfl, BitVec.toNat_ofNat, Nat.mod_eq_of_lt hlt]
  case disp k =>
    rw [dispWidth_eq, dispHeight_eq, if_pos hnamed, setDisp_disp, cell_setCell _ k k _ hnamed, if_pos rfl,
      toNat_beq_one hlt]
  case key k => rw [if_pos hnamed, key_setKeys_putKey s k k _ hnamed, if_pos rfl, toNat_beq_one hlt]
  case mem a => rw [if_pos hnamed, setMem_mem, read_write, if_pos rfl, BitVec.toNat_ofNat, Nat.mod_eq_of_lt hlt]
  case dirty => rw [setDirty_dirty, toNat_beq_one hlt]
  case sp => rw [setSp_sp, Fin.val_ofNat, Nat.mod_eq_of_lt hlt]
  case i => rw [setI_i, BitVec.toNat_ofNat, Nat.mod_eq_of_lt hlt]
  case pc => rw [setPc_pc, BitVec.toNat_ofNat, Nat.mod_eq_of_lt hlt]
  case dt => rw [setDt_dt, BitVec.toNat_ofNat, Nat.mod_eq_of_lt hlt]
  case st => rw [setSt_st, BitVec.toNat_ofNat, Nat.mod_eq_of_lt hlt]

/-- Every other element reads as before. -/
theorem peek_written_other {e' : Element} (hnamed : e.named) (hne : e' ≠ e) : (s.written e n).peek e' = s.peek e' := by
  cases e
  case v k =>
    cases e'
    case v j =>
      simp only [State.peek, State.written]
      split
      · rename_i hj
        rw [getV_setV_ne]
        exact fun h => hne (congrArg Element.v (ofNat4_inj hj hnamed h))
      · rfl
    all_goals rfl
  case stack k =>
    cases e'
    case stack j =>
      have hj : j ≠ k := fun h => hne (congrArg Element.stack h)
      simp only [State.peek, State.written, slot_setStack_setIfInBounds s k j _ hnamed, if_neg hj]
    all_goals rfl
  case disp k =>
    cases e'
    case disp j =>
      have hj : j ≠ k := fun h => hne (congrArg Element.disp h)
      simp only [State.peek, State.written, setDisp_disp, cell_setCell _ k j _ hnamed, if_neg hj]
    all_goals rfl
  case key k =>
    cases e'
    case key j =>
      have hj : j ≠ k := fun h => hne (congrArg Element.key h)
      simp only [State.peek, State.written, key_setKeys_putKey s k j _ hnamed, if_neg hj]
    all_goals rfl
  case mem a =>
    cases e'
    case mem b =>
      have hb : b ≠ a := fun h => hne (congrArg Element.mem h)
      simp only [State.peek, State.written, setMem_mem, read_write, if_neg hb]
    all_goals rfl
  all_goals cases e' <;> simp at hne <;> rfl

/-- Settles O28. -/
theorem mutatorsWriteOneElementOrNothing : Obligations.MutatorsWriteOneElementOrNothing := by
  refine ⟨fun s e n hpeek hlt => ?_, fun s t e n h => ?_, fun s e n h => ?_, fun s e n h => ?_, fun s e h => ?_,
    fun s k => ⟨rfl, rfl, rfl, rfl, rfl, rfl, rfl, rfl, rfl, rfl, rfl⟩⟩
  · have hnamed : e.named := by rwa [ne_eq, peek_eq_none, not_not] at hpeek
    exact ⟨_, (poke_eq_some s).mpr ⟨hnamed, hlt, rfl⟩⟩
  · have hreply : transact (.poke e n) s = (t, .ok) := by rw [transact, h]; rfl
    obtain ⟨hnamed, hlt, rfl⟩ := (poke_eq_some s).mp h
    exact ⟨hreply, peek_written_same s hnamed hlt, fun e' hne => peek_written_other s hnamed hne, written_params s,
      written_draws s⟩
  · rw [transact, poke_eq_none s h]
    rfl
  · exact ⟨by rw [transact, h], peek_lt_limit s h⟩
  · rw [transact, h]

end Sys2Proof.Machine
end

section
/-! SUPPORT. What a transaction can do, said once, and the invariants of every sequence of them (00_scope.md R5, R6). -/

namespace Sys2Proof.Machine

/-- The states a transaction can leave: the one it found, or what the transaction is for (R5). -/
inductive Transacts (s : State) : Transaction → State → Prop where
  | kept (tr : Transaction) : Transacts s tr s
  | stepped {t : State} (h : step s = .next t) : Transacts s .step t
  | unknownSkipped : Transacts s .step (s.setPc (s.pc + 2))
  | reset : Transacts s .reset s.resetFrom
  | loaded (bytes : List Byte) (h : bytes.length ≤ 3584) :
      Transacts s (.loadProgram bytes) (s.setMem (s.mem.writeBytes 0x200 bytes))
  | ticked : Transacts s .timerTick s.timerTick
  | latched (k b : Nat) (keys : BitVec 16) : Transacts s (.setKey k b) (s.setKeys keys)
  | cleared : Transacts s .clearDirty s.clearDirty
  | poked (e : Element) (n : Nat) (h : e.named) : Transacts s (.poke e n) (s.written e n)

theorem afterFault_transacts (s : State) (f : Fault) : Transacts s .step (s.afterFault f) := by
  cases f
  case unknownOpcode w =>
    change Transacts s .step (if s.params.unkPcAdvances then s.setPc (s.pc + 2) else s)
    split
    · exact .unknownSkipped
    · exact .kept _
  all_goals exact .kept _

theorem transact_step_fst (s : State) : (transact .step s).1 = (stepReport s).1 := by
  rw [transact]
  split <;> rename_i h <;> rw [h]

theorem step_transacts (s : State) : Transacts s .step (transact .step s).1 := by
  rw [transact_step_fst, stepReport]
  split
  · exact .stepped ‹_›
  · exact afterFault_transacts s _
  · exact .kept _

theorem transact_transacts (s : State) (tr : Transaction) : Transacts s tr (transact tr s).1 := by
  cases tr
  case step => exact step_transacts s
  case reset => exact .reset
  case timerTick => exact .ticked
  case clearDirty => exact .cleared
  case loadProgram bytes =>
    simp only [transact, State.loadProgram]
    split
    · exact .kept _
    · exact .loaded bytes (Nat.le_of_not_lt ‹_›)
  case setKey k b =>
    simp only [transact, State.setKey]
    split
    · exact .latched k b _
    · exact .kept _
  case peek e =>
    simp only [transact]
    split <;> exact .kept _
  case poke e n =>
    cases h : s.poke e n
    case none => rw [transact, h]; exact .kept _
    case some t =>
      rw [transact, h]
      obtain ⟨hnamed, -, rfl⟩ := (poke_eq_some s).mp h
      exact .poked e n hnamed

/-- What every transaction keeps, every sequence of them keeps (R6). -/
theorem after_keeps {P : State → Prop} (hP : ∀ s u tr, Transacts s tr u → P s → P u) :
    ∀ (ts : List Transaction) (s : State), P s → P (s.after ts)
  | [], _, hs => hs
  | tr :: ts, s, hs => after_keeps hP ts _ (hP s _ tr (transact_transacts s tr) hs)

theorem written_keeps_wf {s : State} {e : Element} (n : Nat) (hnamed : e.named) (hs : s.mem.wf = true) :
    (s.written e n).mem.wf = true := by
  cases e
  case mem a => exact wf_write s.mem a _ hs hnamed
  all_goals exact hs

theorem transacts_keeps_consistent {s u : State} {tr : Transaction} (h : Transacts s tr u) (hs : s.consistent = true) :
    u.consistent = true := by
  cases h
  case stepped h => exact stepKeepsMemoryForm s u hs h
  case reset => exact wf_writeBytes _ [] 0 rfl (.inr (by simp))
  case loaded bytes h => exact wf_writeBytes bytes s.mem 0x200 hs (.inr (by simp only [memSize_eq]; omega))
  case poked e n hnamed => exact written_keeps_wf n hnamed hs
  all_goals exact hs

theorem transacts_params {s u : State} {tr : Transaction} (h : Transacts s tr u) : u.params = s.params := by
  cases h
  case stepped h => exact step_params h
  case poked e n hnamed => exact written_params s
  all_goals rfl

/-- Settles O23. -/
theorem transactionsKeepInvariants : Obligations.TransactionsKeepInvariants := by
  have hconsistent : ∀ (ts : List Transaction) (s : State), s.consistent = true → (s.after ts).consistent = true :=
    after_keeps fun s u tr => transacts_keeps_consistent
  refine ⟨hconsistent, ?_, fun ts s => ?_⟩
  · rintro s ⟨ts, rfl⟩
    exact hconsistent ts _ resetMeetsInvariants.1
  · exact after_keeps (P := fun u => u.params = s.params) (fun _ _ _ h hs => (transacts_params h).trans hs) ts s rfl

/-- An instruction leaves `DIRTY` set where it is set: two set it, the others do not reach it (R30). -/
theorem exec_keeps_dirty {i : Instr} {s t : State} (hs : s.dirty = true) (h : exec i s = .next t) : t.dirty = true := by
  cases i
  case cls => cases h; rfl
  case drw =>
    obtain ⟨_, -, rfl⟩ := (orRaise_next_value _ _ t).mp h
    rfl
  all_goals exact (congrArg State.dirty (exec_keeps (p := .dirty) (by simp [reaches]) h)).symm.trans hs

/-- Settles O16. -/
theorem dirtySetByDisplayInstructionsOnly : Obligations.DirtySetByDisplayInstructionsOnly := by
  refine ⟨fun i s b hcls hdrw => exec_withPart (s.setDirty b) s (dirty_not_reached hcls hdrw), fun s t h => ?_,
    fun x y n s t h => ?_, ?_, fun s => ⟨rfl, rfl⟩, fun tr s hs hclear hreset hpoke => ?_⟩
  · cases h
    rfl
  · obtain ⟨rows, -, rfl⟩ := (orRaise_next_value _ _ t).mp h
    exact drawSprite_dirty s x y rows
  · rintro i s t b (rfl | ⟨x, y, n, rfl⟩) h
    · exact h
    · exact h
  · have htr := transact_transacts s tr
    generalize (transact tr s).1 = u at htr
    cases htr
    case stepped h =>
      obtain ⟨i, -, hexec⟩ := (step_next s u).mp h
      exact exec_keeps_dirty hs hexec
    case reset => exact absurd rfl hreset
    case cleared => exact absurd rfl hclear
    case poked e n _ => exact absurd rfl (hpoke e n)
    all_goals exact hs

end Sys2Proof.Machine
end

section
/-! SUPPORT. The state through its accessors: what they answer after `Reset`, and that they tell states apart
(10_state.md R20, R36). -/

namespace Sys2Proof.Machine

theorem resetByte_of_ge {a : Nat} (h : 80 ≤ a) : Config.resetByte a = 0 := List.getD_eq_default _ _ h

theorem resetFrom_mem_read (s : State) (a : Nat) :
    s.resetFrom.mem.read a = if a < 80 then s.params.font.toList.getD a 0 else Config.resetByte a :=
  (read_writeBytes s.params.font.toList [] 0 a).trans (by simp [read_nil])

/-- Settles O30. -/
theorem resetLeavesTheTable : Obligations.ResetLeavesTheTable := by
  refine fun s => ⟨s.resetFrom, rfl, fun r => ?_, rfl, rfl, fun k => ?_, rfl, rfl, rfl, fun k hk => ?_, rfl, fun k => ?_,
    fun a ha => ?_, fun a ha => ?_⟩
  · exact Vector.getElem_replicate r.isLt
  · simp only [State.slot, State.resetFrom, State.reset, Vector.getElem?_replicate]
    split <;> rfl
  · simp only [Display.cell, Display.row, State.resetFrom, State.reset, Vector.getElem?_replicate]
    split <;> simp
  · exact BitVec.getLsbD_zero
  · rw [resetFrom_mem_read, if_pos ha]
  · rw [resetFrom_mem_read, if_neg (Nat.not_lt.mpr ha), resetByte_of_ge ha]

section
variable {s t : State}

theorem regs_ext (h : ∀ r, s.getV r = t.getV r) : s.v = t.v :=
  Vector.ext fun k hk => by
    have := h (BitVec.ofNat 4 k)
    simpa [State.getV, Nat.mod_eq_of_lt hk] using this

theorem stack_ext (h : ∀ k < 16, s.slot k = t.slot k) : s.stack = t.stack :=
  Vector.ext fun k hk => by simpa [State.slot, hk] using h k hk

theorem keys_ext (h : ∀ k < 16, s.key k = t.key k) : s.keys = t.keys :=
  BitVec.eq_of_getLsbD_eq h

theorem disp_ext {d d' : Display} (h : ∀ k < 2048, d.cell k = d'.cell k) : d = d' :=
  Vector.ext fun y hy => BitVec.eq_of_getLsbD_eq fun x hx => by
    have hdiv : (y * 64 + x) / 64 = y := by omega
    have hmod : (y * 64 + x) % 64 = x := by omega
    simpa [Display.cell, Display.row, hdiv, hmod, hy] using h (y * 64 + x) (by omega)

end

theorem bool_toNat_inj : ∀ {b c : Bool}, b.toNat = c.toNat ↔ b = c := by decide

/-- Settles O26, element by element. -/
theorem accessorsSeeTheWholeState : Obligations.AccessorsSeeTheWholeState := by
  intro s t hs ht hpeek hparams hdraws
  have hv : s.v = t.v := regs_ext fun r => by
    have := hpeek (.v r.toNat)
    simpa [State.peek, r.isLt, BitVec.toNat_inj] using this
  have hi : s.i = t.i := by simpa [State.peek, BitVec.toNat_inj] using hpeek .i
  have hpc : s.pc = t.pc := by simpa [State.peek, BitVec.toNat_inj] using hpeek .pc
  have hstack : s.stack = t.stack := stack_ext fun k hk => by
    simpa [State.peek, hk, BitVec.toNat_inj] using hpeek (.stack k)
  have hsp : s.sp = t.sp := by simpa [State.peek, Fin.val_inj] using hpeek .sp
  have hdt : s.dt = t.dt := by simpa [State.peek, BitVec.toNat_inj] using hpeek .dt
  have hst : s.st = t.st := by simpa [State.peek, BitVec.toNat_inj] using hpeek .st
  have hdisp : s.disp = t.disp := disp_ext fun k hk => by
    simpa [State.peek, hk, bool_toNat_inj] using hpeek (.disp k)
  have hdirty : s.dirty = t.dirty := by simpa [State.peek, bool_toNat_inj] using hpeek .dirty
  have hkeys : s.keys = t.keys := keys_ext fun k hk => by
    simpa [State.peek, hk, bool_toNat_inj] using hpeek (.key k)
  have hmem : s.mem = t.mem := wf_ext hs ht fun a ha => by
    simpa [State.peek, ha, BitVec.toNat_inj] using hpeek (.mem a)
  cases s
  cases t
  simp only [State.mk.injEq]
  exact ⟨hv, hi, hpc, hstack, hsp, hdt, hst, hdisp, hdirty, hkeys, hmem, hparams, hdraws⟩

end Sys2Proof.Machine
end

section
/-! SUPPORT. The checked accesses of one byte and of one word, and the word stored where the next step fetches
(20_memory.md R51, R53, R54, R61). -/

namespace Sys2Proof

/-- A word by its two bytes: `mem[a] * 256 + mem[a + 1]` (R51). -/
theorem wordOfBytes_toNat (hi lo : Byte) : (wordOfBytes hi lo).toNat = hi.toNat * 256 + lo.toNat := by
  rw [wordOfBytes, BitVec.toNat_append, ← Nat.shiftLeft_add_eq_or_of_lt lo.isLt, Nat.shiftLeft_eq]

/-- A table row's word is read back from its two bytes. -/
theorem decodeTableWord_eq (nbits w : Nat) : decodeTableWord nbits w = decodeWord (tableWord nbits w) := by
  rw [decodeTableWord, decodeBytes, wordOfBytes_bytes]
  cases decodeWord (tableWord nbits w) <;> rfl

end Sys2Proof

namespace Sys2Proof.Machine

/-- One byte is reached exactly up to 4095 (R52). -/
theorem admitted_one (a : Nat) : admitted a 1 = true ↔ a ≤ 4095 := by
  simp only [admitted_iff, memSize_eq]
  omega

/-- A byte out of bounds is reported at its own address (R52). -/
theorem boundsFault_of_ge {a : Nat} (h : 4096 ≤ a) : boundsFault a = .memoryOutOfBounds a :=
  congrArg Fault.memoryOutOfBounds (Nat.max_eq_left h)

/-- Settles O12. -/
theorem memoryPrimitivesCheckAndAccess : Obligations.MemoryPrimitivesCheckAndAccess := by
  refine fun m a v => ⟨fun ha => ?_, fun ha => ?_, fun ha => ?_, fun ha => ?_⟩
  · have hadm := (admitted_one a).mpr ha
    exact ⟨(load_ok m a 1 _).mpr ⟨hadm, rfl⟩, m.write a v, (store_ok m a [v] _).mpr ⟨hadm, rfl⟩,
      by rw [read_write, if_pos rfl], fun b hb => by rw [read_write, if_neg hb]⟩
  · have hadm : admitted a 1 = false := Bool.eq_false_iff.mpr fun h => Nat.not_le.mpr ha ((admitted_one a).mp h)
    have hfault := (boundsFault_of_ge ha).symm
    exact ⟨(load_error m a 1 _).mpr ⟨hadm, hfault⟩, (store_error m a [v] _).mpr ⟨hadm, hfault⟩⟩
  · exact ⟨_, (loadWord_ok m a _).mpr ⟨Nat.succ_le_succ ha, rfl⟩, wordOfBytes_toNat _ _⟩
  · exact (loadWord_error m a _).mpr ⟨fun h => Nat.not_le.mpr ha (Nat.le_of_succ_le_succ h), rfl⟩

variable {s : State}

theorem step_of_fetch {i : Instr} (h : s.fetch = .ok i) : step s = exec i s := by
  rw [step, h, orRaise_ok]

/-- Replacing memory changes no other part of the state. -/
theorem frame_setMem (s : State) (m : Memory) : Frame [.mem] s (s.setMem m) := by
  simp [Frame]

/-- Writing bytes in a row changes those bytes of memory only. -/
theorem bytesKept_writeBytes (s : State) (a : Nat) (us : List Byte) :
    BytesKept a us.length s (s.setMem (s.mem.writeBytes a us)) := by
  intro b hb
  rw [setMem_mem, read_writeBytes, if_neg (by omega)]

/-- Where `PC` can be fetched from, the word's two bytes are written there. -/
theorem withFetchWord_eq (nbits w : Nat) (hpc : s.pc.toNat + 1 ≤ 4095) : s.withFetchWord nbits w =
    s.setMem (s.mem.writeBytes s.pc.toNat [highByte (tableWord nbits w), lowByte (tableWord nbits w)]) :=
  if_pos ((admitted_iff _ _).mpr (.inr (Nat.succ_le_succ hpc)))

/-- The word placed at `PC` is the one fetched (R51, R91). -/
theorem fetch_withFetchWord {nbits w : Nat} {i : Instr} (hpc : s.pc.toNat + 1 ≤ 4095)
    (hdec : decodeTableWord nbits w = some i) : (s.withFetchWord nbits w).fetch = .ok i := by
  rw [withFetchWord_eq nbits w hpc, fetch_ok, setMem_pc, setMem_mem]
  refine ⟨Nat.succ_le_succ hpc, ?_⟩
  simpa [read_writeBytes, decodeTableWord_eq] using hdec

/-- Settles O7. -/
theorem storedWordIsFetched : Obligations.StoredWordIsFetched := by
  intro s nbits w i hpc hdec
  refine ⟨step_of_fetch (fetch_withFetchWord hpc hdec), ?_⟩
  rw [withFetchWord_eq nbits w hpc]
  exact ⟨bytesKept_writeBytes s _ [_, _], frame_setMem s _⟩

end Sys2Proof.Machine
end

section
/-! SUPPORT. Settles that memory, display and latches are reached only by the instructions the spec gives them, from the
one lemma on the parts an instruction does not reach (10_state.md R29, R31; 20_memory.md R50, R56). -/

namespace Sys2Proof.Machine

theorem mem_not_reached {i : Instr} (hdrw : ∀ x y n, i ≠ .drw x y n)
    (hmem : ∀ x, i ≠ .ldB x ∧ i ≠ .dumpRegs x ∧ i ≠ .loadRegs x) : Part.mem ∉ reaches i := by
  cases i <;> simp [reaches] at hdrw hmem ⊢

theorem disp_not_reached {i : Instr} (hcls : i ≠ .cls) (hdrw : ∀ x y n, i ≠ .drw x y n) : Part.disp ∉ reaches i := by
  cases i <;> simp [reaches] at hcls hdrw ⊢

theorem keys_not_reached {i : Instr} (hkeys : ∀ x, i ≠ .skp x ∧ i ≠ .sknp x ∧ i ≠ .ldVxK x) :
    Part.keys ∉ reaches i := by
  cases i <;> simp [reaches] at hkeys ⊢

/-- Settles O18. -/
theorem spacesReachedOnlyByTheirInstructions : Obligations.SpacesReachedOnlyByTheirInstructions :=
  fun _ s => ⟨fun m hdrw hmem => exec_withPart (s.setMem m) s (mem_not_reached hdrw hmem),
    fun d hcls hdrw => exec_withPart (s.setDisp d) s (disp_not_reached hcls hdrw),
    fun k hkeys => exec_withPart (s.setKeys k) s (keys_not_reached hkeys)⟩

end Sys2Proof.Machine
end

section
/-! SUPPORT. The decoder against the encoder: the encoder's words decode to their instructions, and a word that decodes
is its instruction's word but for the bits the instruction ignores (30_encoding.md R70, R73, R75, R76). -/

namespace Sys2Proof

/-- The encoder's word has the fields its instruction is decoded from. -/
theorem decodeWord_encode (i : Instr) : decodeWord (encode i) = some i := by
  cases i
  case cls | ret => decide
  all_goals simp [encode, decodeWord, decodeFamily8, decodeFamilyE, decodeFamilyF]

theorem decodeBytes_encodeBytes (i : Instr) (rest : List Byte) :
    decodeBytes (encodeBytes i ++ rest) = .ok (i, rest) := by
  simp [encodeBytes, decodeBytes, decodeWord_encode]

/-- Settles O2, by the fields of each instruction's word. -/
theorem decodeOfEncodeIsIdentity : Obligations.DecodeOfEncodeIsIdentity :=
  fun i rest => ⟨decodeWord_encode i, decodeBytes_encodeBytes i rest⟩

/-- An instruction has one word. -/
theorem encode_injective : Function.Injective encode := fun i j h =>
  Option.some.inj (by rw [← decodeWord_encode i, h, decodeWord_encode])

/-! ### A word is its fields, in the three layouts of R70, and with one field cleared -/

section
variable {w : Word} {f n : BitVec 4} {nn : Byte}

theorem nnn_eq (hf : wordFamily w = f) : f ++ wordNNN w = w := by
  subst hf
  exact (BitVec.extractLsb'_append_extractLsb'_eq_extractLsb' rfl).trans BitVec.extractLsb'_eq_self

theorem xnn_eq (hf : wordFamily w = f) (hnn : wordNN w = nn) : f ++ wordX w ++ nn = w := by
  subst hf hnn
  unfold wordFamily wordX wordNN
  rw [BitVec.extractLsb'_append_extractLsb'_eq_extractLsb' (show 12 = 8 + 4 from rfl),
    BitVec.extractLsb'_append_extractLsb'_eq_extractLsb' (show 8 = 0 + 8 from rfl)]
  exact BitVec.extractLsb'_eq_self

theorem xyn_eq (hf : wordFamily w = f) (hn : wordN w = n) : f ++ wordX w ++ wordY w ++ n = w := by
  subst hf hn
  unfold wordFamily wordX wordY wordN
  rw [BitVec.extractLsb'_append_extractLsb'_eq_extractLsb' (show 12 = 8 + 4 from rfl),
    BitVec.extractLsb'_append_extractLsb'_eq_extractLsb' (show 8 = 4 + 4 from rfl),
    BitVec.extractLsb'_append_extractLsb'_eq_extractLsb' (show 4 = 0 + 4 from rfl)]
  exact BitVec.extractLsb'_eq_self

/-- Bits 11:8 cleared. -/
theorem clear_x (hf : wordFamily w = f) (hnn : wordNN w = nn) : f ++ 0#4 ++ nn = w &&& ~~~0x0F00 := by
  have hmask : (~~~0x0F00 : Word) = BitVec.allOnes 4 ++ 0#4 ++ BitVec.allOnes 8 := rfl
  rw [hmask, ← xnn_eq hf hnn, mask_xnn]
  simp only [BitVec.and_allOnes, BitVec.and_zero]

/-- Bits 7:4 cleared. -/
theorem clear_y (hf : wordFamily w = f) (hn : wordN w = n) : f ++ wordX w ++ (0#4 ++ n) = w &&& ~~~0x00F0 := by
  have hmask : (~~~0x00F0 : Word) = BitVec.allOnes 4 ++ BitVec.allOnes 4 ++ 0#4 ++ BitVec.allOnes 4 := rfl
  conv_rhs => rw [hmask, ← xyn_eq hf hn, mask_xyn]
  simp only [BitVec.and_allOnes, BitVec.and_zero]
  exact BitVec.append_assoc.symm

/-- Bits 3:0 cleared. -/
theorem clear_n (hf : wordFamily w = f) : f ++ wordX w ++ wordY w ++ 0#4 = w &&& ~~~0x000F := by
  have hmask : (~~~0x000F : Word) = BitVec.allOnes 4 ++ BitVec.allOnes 4 ++ BitVec.allOnes 4 ++ 0#4 := rfl
  conv_rhs => rw [hmask, ← xyn_eq hf rfl, mask_xyn]
  simp only [BitVec.and_allOnes, BitVec.and_zero]

/-- No bits cleared. -/
theorem clear_none {v : Word} (h : v = w) : v = w &&& ~~~0 := by
  rw [h]
  exact BitVec.and_allOnes.symm

end

/-- The bits of its word an instruction ignores (R76; log entries 12, 13, 15). -/
def Instr.dontCare : Instr → Word
  | .cls | .ret => 0x0F00
  | .seReg _ _ | .sneReg _ _ => 0x000F
  | .shr _ | .shl _ => 0x00F0
  | _ => 0

section
variable {w : Word} {i : Instr}

theorem encode_of_decodeFamily0 (hf : wordFamily w = 0x0) (h : decodeFamily0 w = some i) :
    encode i = w &&& ~~~i.dontCare := by
  unfold decodeFamily0 at h
  split at h
  next hnn => cases h; exact clear_x hf hnn
  next hnn => cases h; exact clear_x hf hnn
  next => cases h

theorem encode_of_decodeFamily8 (hf : wordFamily w = 0x8) (h : decodeFamily8 w = some i) :
    encode i = w &&& ~~~i.dontCare := by
  unfold decodeFamily8 at h
  split at h
  -- the shifts ignore `y`
  case h_7 hn | h_9 hn => cases h; exact clear_y hf hn
  case h_10 => cases h
  all_goals next hn => cases h; exact clear_none (xyn_eq hf hn)

theorem encode_of_decodeFamilyE (hf : wordFamily w = 0xE) (h : decodeFamilyE w = some i) :
    encode i = w &&& ~~~i.dontCare := by
  unfold decodeFamilyE at h
  split at h
  next hnn => cases h; exact clear_none (xnn_eq hf hnn)
  next hnn => cases h; exact clear_none (xnn_eq hf hnn)
  next => cases h

theorem encode_of_decodeFamilyF (hf : wordFamily w = 0xF) (h : decodeFamilyF w = some i) :
    encode i = w &&& ~~~i.dontCare := by
  unfold decodeFamilyF at h
  split at h
  case h_10 => cases h
  all_goals next hnn => cases h; exact clear_none (xnn_eq hf hnn)

/-- Encoding a decoded word gives it back but for the bits its instruction ignores. -/
theorem encode_of_decodeWord (h : decodeWord w = some i) : encode i = w &&& ~~~i.dontCare := by
  unfold decodeWord at h
  split at h
  case h_1 hf => exact encode_of_decodeFamily0 hf h
  case h_9 hf => exact encode_of_decodeFamily8 hf h
  case h_15 hf => exact encode_of_decodeFamilyE hf h
  case h_16 hf => exact encode_of_decodeFamilyF hf h
  case h_17 => cases h
  all_goals cases h
  -- families 0x1, 0x2, 0xA, 0xB: the operand is `nnn`
  case h_2 hf | h_3 hf | h_11 hf | h_12 hf => exact clear_none (nnn_eq hf)
  -- families 0x3, 0x4, 0x6, 0x7, 0xC: `x` and `nn`
  case h_4 hf | h_5 hf | h_7 hf | h_8 hf | h_13 hf => exact clear_none (xnn_eq hf rfl)
  -- families 0x5, 0x9: `x` and `y`, the low nibble ignored
  case h_6 hf | h_10 hf => exact clear_n hf
  -- family 0xD: `x`, `y` and `n`
  case h_14 hf => exact clear_none (xyn_eq hf rfl)

end

/-! ### The row of an instruction -/

theorem encodingInMap (i : Instr) : Laws.EncodingInMap.Statement i := by
  open Laws.EncodingInMap in
  cases i
  exacts [cls, ret, jp _, call _, seImm _ _, sneImm _ _, seReg _ _, ldImm _ _, addImm _ _, ldReg _ _, orReg _ _,
    andReg _ _, xorReg _ _, addReg _ _, subReg _ _, shr _, subnReg _ _, shl _, sneReg _ _, ldI _, jpV0 _, rnd _ _,
    drw _ _ _, skp _, sknp _, ldVxDt _, ldVxK _, ldDtVx _, ldStVx _, addI _, ldF _, ldB _, dumpRegs _, loadRegs _]

/-- The map's don't-care bits are those of the instruction with the row's name. -/
theorem row_dontCare (i : Instr) : ∀ r ∈ opcodeMap, r.mnemonic = i.mnemonic → r.dontCare = i.dontCare := by
  cases i <;> (simp only [Instr.mnemonic, Instr.dontCare]; decide)

/-- No row looks at a bit it ignores. -/
theorem row_mask : ∀ r ∈ opcodeMap, ~~~r.dontCare &&& r.mask = r.mask := by decide

theorem accepts_iff (r : OpcodeRow) (w : Word) : r.accepts w = true ↔ w &&& r.mask = r.bits := beq_iff_eq

/-- Whether a row accepts a word does not depend on the row's don't-care bits. -/
theorem accepts_clear {r : OpcodeRow} (hr : r ∈ opcodeMap) (w : Word) :
    r.accepts (w &&& ~~~r.dontCare) = r.accepts w := by
  rw [OpcodeRow.accepts, BitVec.and_assoc, row_mask r hr, OpcodeRow.accepts]

/-- Settles O3: the row is the one the encoder's word matches. -/
theorem encodeOfDecodeIsCanonical : Obligations.EncodeOfDecodeIsCanonical := by
  intro w i h
  obtain ⟨r, hr, hname, haccepts, -⟩ := encodingInMap i
  have henc : encode i = w &&& ~~~r.dontCare := by rw [row_dontCare i r hr hname, encode_of_decodeWord h]
  exact ⟨r, hr, hname, by rw [← accepts_clear hr, ← henc, haccepts], henc⟩

end Sys2Proof
end

section
/-! SUPPORT. The decoder against the opcode map: which words are unknown, in the fields of the word, and that the rows
of the map accept exactly the others, each word by one row (30_encoding.md R73, R75, R77). -/

namespace Sys2Proof

variable {w : Word}

/-! ### Unknown words -/

/-- The 16 values of a family or of a sub-opcode nibble. -/
theorem nibble_mem : ∀ n : BitVec 4, n ∈
    [0x0#4, 0x1#4, 0x2#4, 0x3#4, 0x4#4, 0x5#4, 0x6#4, 0x7#4, 0x8#4, 0x9#4, 0xA#4, 0xB#4, 0xC#4, 0xD#4, 0xE#4, 0xF#4] := by
  decide

theorem decodeFamily0_eq_none : decodeFamily0 w = none ↔ wordNN w ∉ [0xE0, 0xEE] := by
  unfold decodeFamily0
  split <;> simp_all

theorem decodeFamily8_eq_none : decodeFamily8 w = none ↔ wordN w ∈ [0x8, 0x9, 0xA, 0xB, 0xC, 0xD, 0xF] := by
  unfold decodeFamily8
  have hcases := nibble_mem (wordN w)
  split <;> simp_all

theorem decodeFamilyE_eq_none : decodeFamilyE w = none ↔ wordNN w ∉ [0x9E, 0xA1] := by
  unfold decodeFamilyE
  split <;> simp_all

theorem decodeFamilyF_eq_none :
    decodeFamilyF w = none ↔ wordNN w ∉ [0x07, 0x0A, 0x15, 0x18, 0x1E, 0x29, 0x33, 0x55, 0x65] := by
  unfold decodeFamilyF
  split <;> simp_all

/-- Only the four families with a sub-opcode have unknown words. -/
theorem decodeWord_eq_none : decodeWord w = none ↔
    (wordFamily w = 0x0 ∧ wordNN w ∉ [0xE0, 0xEE]) ∨
    (wordFamily w = 0x8 ∧ wordN w ∈ [0x8, 0x9, 0xA, 0xB, 0xC, 0xD, 0xF]) ∨
    (wordFamily w = 0xE ∧ wordNN w ∉ [0x9E, 0xA1]) ∨
    (wordFamily w = 0xF ∧ wordNN w ∉ [0x07, 0x0A, 0x15, 0x18, 0x1E, 0x29, 0x33, 0x55, 0x65]) := by
  rw [← decodeFamily0_eq_none, ← decodeFamily8_eq_none, ← decodeFamilyE_eq_none, ← decodeFamilyF_eq_none, decodeWord]
  have hcases := nibble_mem (wordFamily w)
  split <;> simp_all

/-! ### Fields as numbers -/

theorem wordFamily_toNat (w : Word) : (wordFamily w).toNat = w.toNat / 4096 := by
  rw [wordFamily, BitVec.extractLsb'_toNat, Nat.shiftRight_eq_div_pow, Nat.mod_eq_of_lt (by omega)]

theorem wordNN_toNat (w : Word) : (wordNN w).toNat = w.toNat % 256 := by
  rw [wordNN, BitVec.extractLsb'_toNat, Nat.shiftRight_zero]

theorem wordN_toNat (w : Word) : (wordN w).toNat = w.toNat % 16 := by
  rw [wordN, BitVec.extractLsb'_toNat, Nat.shiftRight_zero]

/-! ### Rows -/

/-- Two rows that could accept one word are the same row. -/
theorem row_unique : ∀ r ∈ opcodeMap, ∀ r' ∈ opcodeMap, r.bits &&& r'.mask = r'.bits &&& r.mask → r = r' := by decide

theorem accepts_unique {r r' : OpcodeRow} (hr : r ∈ opcodeMap) (hr' : r' ∈ opcodeMap) (h : r.accepts w = true)
    (h' : r'.accepts w = true) : r = r' := by
  rw [accepts_iff] at h h'
  refine row_unique r hr r' hr' ?_
  rw [← h, ← h', BitVec.and_assoc, BitVec.and_assoc, BitVec.and_comm r.mask]

/-- Every row fixes the family, and in the families with a sub-opcode the sub-opcode, to one R77 does not list (R73). -/
theorem row_fields : ∀ r ∈ opcodeMap, wordFamily r.mask = 0xF ∧
    (wordFamily r.bits = 0x0 → wordNN r.mask = 0xFF ∧ wordNN r.bits ∈ [0xE0, 0xEE]) ∧
    (wordFamily r.bits = 0x8 → wordN r.mask = 0xF ∧ wordN r.bits ∉ [0x8, 0x9, 0xA, 0xB, 0xC, 0xD, 0xF]) ∧
    (wordFamily r.bits = 0xE → wordNN r.mask = 0xFF ∧ wordNN r.bits ∈ [0x9E, 0xA1]) ∧
    (wordFamily r.bits = 0xF → wordNN r.mask = 0xFF ∧
      wordNN r.bits ∈ [0x07, 0x0A, 0x15, 0x18, 0x1E, 0x29, 0x33, 0x55, 0x65]) := by decide

/-- A field the row's mask fixes whole has the row's value. -/
theorem accepts_field {r : OpcodeRow} {start len : Nat} (h : r.accepts w = true)
    (hmask : r.mask.extractLsb' start len = BitVec.allOnes len) :
    w.extractLsb' start len = r.bits.extractLsb' start len := by
  rw [← (accepts_iff r w).mp h, BitVec.extractLsb'_and, hmask, BitVec.and_allOnes]

/-- A word some row accepts is not among R77's: its family and its sub-opcode are the row's. -/
theorem decodeWord_ne_none_of_accepts {r : OpcodeRow} (hr : r ∈ opcodeMap) (h : r.accepts w = true) :
    decodeWord w ≠ none := by
  obtain ⟨hfamily, h0, h8, hE, hF⟩ := row_fields r hr
  rw [← show wordFamily w = wordFamily r.bits from accepts_field h hfamily] at h0 h8 hE hF
  have mem_of_row {l : List Byte} : wordNN r.mask = 0xFF ∧ wordNN r.bits ∈ l → wordNN w ∈ l :=
    fun ⟨hmask, hbits⟩ => (show wordNN w = wordNN r.bits from accepts_field h hmask) ▸ hbits
  intro hnone
  rcases decodeWord_eq_none.mp hnone with ⟨hf, hsub⟩ | ⟨hf, hsub⟩ | ⟨hf, hsub⟩ | ⟨hf, hsub⟩
  · exact hsub (mem_of_row (h0 hf))
  · obtain ⟨hmask, hbits⟩ := h8 hf
    exact hbits ((show wordN w = wordN r.bits from accepts_field h hmask) ▸ hsub)
  · exact hsub (mem_of_row (hE hf))
  · exact hsub (mem_of_row (hF hf))

/-- A word a row accepts decodes, to the instruction whose word it is with the row's don't-care bits cleared. -/
theorem decodeWord_of_accepts {r : OpcodeRow} (hr : r ∈ opcodeMap) (h : r.accepts w = true) :
    ∃ i, decodeWord w = some i ∧ encode i = w &&& ~~~r.dontCare := by
  obtain ⟨i, hi⟩ := Option.ne_none_iff_exists'.mp (decodeWord_ne_none_of_accepts hr h)
  obtain ⟨r', hr', -, h', henc⟩ := encodeOfDecodeIsCanonical w i hi
  exact ⟨i, hi, accepts_unique hr' hr h' h ▸ henc⟩

theorem decodeWord_eq_none_iff_isInstructionWord : decodeWord w = none ↔ isInstructionWord w = false := by
  rw [isInstructionWord, List.any_eq_false]
  refine ⟨fun hnone r hr h => decodeWord_ne_none_of_accepts hr h hnone, fun hmap => ?_⟩
  by_contra hsome
  obtain ⟨i, hi⟩ := Option.ne_none_iff_exists'.mp hsome
  obtain ⟨r, hr, -, h, -⟩ := encodeOfDecodeIsCanonical w i hi
  exact hmap r hr h

/-- Settles O4: R77's words by the decoder's families, the map's by the family and the sub-opcode each row fixes. -/
theorem decoderFollowsTheMap : Obligations.DecoderFollowsTheMap := by
  refine ⟨fun w => decodeWord_eq_none_iff_isInstructionWord, fun w r hr r' hr' => accepts_unique hr hr', fun w => ?_⟩
  rw [decodeWord_eq_none]
  simp only [← BitVec.toNat_inj, wordFamily_toNat, wordNN_toNat, wordN_toNat, List.mem_cons, List.not_mem_nil, or_false]
  rfl

theorem xor_and (u v k : Word) : (u ^^^ v) &&& k = (u &&& k) ^^^ (v &&& k) := by
  ext
  simp only [BitVec.getElem_and, BitVec.getElem_xor, Bool.and_xor_distrib_right]

/-- Settles O5: both words encode to the one word with the row's don't-care bits cleared. -/
theorem dontCareBitsDoNotMatter : Obligations.DontCareBitsDoNotMatter := by
  intro r hr w w' h hagree
  have hclear := BitVec.xor_eq_zero_iff.mp ((xor_and w w' _).symm.trans hagree)
  have h' : r.accepts w' = true := by rw [← accepts_clear hr, ← hclear, accepts_clear hr, h]
  obtain ⟨i, hi, henc⟩ := decodeWord_of_accepts hr h
  obtain ⟨i', hi', henc'⟩ := decodeWord_of_accepts hr h'
  rw [hi, hi', encode_injective (henc.trans (hclear.trans henc'.symm))]

/-- Settles O1, by running the decoder on the words. -/
theorem specWordsDecode : Obligations.SpecWordsDecode := by
  unfold Obligations.SpecWordsDecode
  decide

end Sys2Proof
end

section
/-! SUPPORT. What a step answers: the word it fetches, the instruction it runs, the faults it can report
(40_step_cycle.md R90 to R93, 60_exceptions.md R170, R174, R175). -/

namespace Sys2Proof.Machine

theorem wordOfBytes_eq (hi lo : Byte) : wordOfBytes hi lo = BitVec.ofNat 16 (hi.toNat * 256 + lo.toNat) := by
  rw [← wordOfBytes_toNat, BitVec.ofNat_toNat, BitVec.setWidth_eq]

/-- Settles O6. -/
theorem stepRunsTheDecodedInstruction : Obligations.StepRunsTheDecodedInstruction := by
  intro s i hpc hdec
  rw [← wordOfBytes_eq] at hdec
  exact step_of_fetch ((fetch_ok s i).mpr ⟨Nat.succ_le_succ hpc, hdec⟩)

/-- Settles O8. -/
theorem fetchFaultsBeforeDecode : Obligations.FetchFaultsBeforeDecode := by
  refine fun s => ⟨fun hpc => ?_, ?_⟩
  · have hbounds : ¬ s.pc.toNat + 2 ≤ memSize := fun h => Nat.not_le.mpr hpc (Nat.le_of_succ_le_succ h)
    exact (step_fault s _).mpr (.inl ((fetch_error s _).mpr (.inl ⟨hbounds, rfl⟩)))
  · rintro w hpc rfl hdec
    rw [← wordOfBytes_eq] at hdec ⊢
    exact (step_fault s _).mpr (.inl ((fetch_error s _).mpr (.inr ⟨Nat.succ_le_succ hpc, hdec, rfl⟩)))

/-- What a reported fault may say: an address outside memory that 16 bits hold, a word that is no instruction (R170). -/
def Fault.Reportable : Fault → Prop
  | .unknownOpcode w => decodeWord w = none
  | .stackOverflow => True
  | .stackUnderflow => True
  | .memoryOutOfBounds a => 4096 ≤ a ∧ a ≤ 65535

theorem boundsFault_reportable (a : Word) : (boundsFault a.toNat).Reportable :=
  ⟨Nat.le_max_right _ _, Nat.max_le.mpr ⟨Nat.le_of_lt_succ a.isLt, by decide⟩⟩

theorem fetch_error_reportable {s : State} {f : Fault} (h : s.fetch = .error f) : f.Reportable := by
  obtain ⟨-, rfl⟩ | ⟨-, hdec, rfl⟩ := (fetch_error s f).mp h
  · exact boundsFault_reportable s.pc
  · exact hdec

/-- The faults an instruction can raise in a state: the stack's two, and a memory access at `I` out of bounds (R171). -/
def State.instrFaults (s : State) : List Fault := [.stackOverflow, .stackUnderflow, boundsFault s.i.toNat]

theorem instrFaults_reportable {s : State} {f : Fault} (h : f ∈ s.instrFaults) : f.Reportable := by
  simp only [State.instrFaults, List.mem_cons, List.not_mem_nil, or_false] at h
  obtain rfl | rfl | rfl := h
  · trivial
  · trivial
  · exact boundsFault_reportable s.i

/-- A checked operation followed by a next state completes or raises the fault of its check. -/
theorem orRaise_next_or_fault {α : Type} {e : Except Fault α} (k : α → State) {fs : List Fault}
    (h : ∀ f, e = .error f → f ∈ fs) :
    (∃ t, orRaise e (fun a => .next (k a)) = .next t) ∨ ∃ f ∈ fs, orRaise e (fun a => .next (k a)) = .fault f := by
  cases e with
  | ok a => exact .inl ⟨k a, rfl⟩
  | error f => exact .inr ⟨f, h f rfl, rfl⟩

theorem ite_next (c : Prop) [Decidable c] (t u : State) :
    ∃ r, (if c then .next t else .next u : Result) = .next r := by
  split <;> exact ⟨_, rfl⟩

/-- An instruction completes or raises one of the faults of R171; none is refused. -/
theorem exec_next_or_fault (i : Instr) (s : State) :
    (∃ t, exec i s = .next t) ∨ ∃ f ∈ s.instrFaults, exec i s = .fault f := by
  have underflow : ∀ f, s.pop = .error f → f ∈ s.instrFaults := fun f h => by
    simp [State.instrFaults, ((pop_error s f).mp h).2]
  have overflow : ∀ f, s.push s.pc = .error f → f ∈ s.instrFaults := fun f h => by
    simp [State.instrFaults, ((push_error s s.pc f).mp h).2]
  have load : ∀ n f, s.mem.load (effAddr s.i 0) n = .error f → f ∈ s.instrFaults := fun n f h => by
    simp [State.instrFaults, ((load_error s.mem _ n f).mp h).2, effAddr]
  have store : ∀ us f, s.mem.store (effAddr s.i 0) us = .error f → f ∈ s.instrFaults := fun us f h => by
    simp [State.instrFaults, ((store_error s.mem _ us f).mp h).2, effAddr]
  cases i
  case ret => exact orRaise_next_or_fault _ underflow
  case call => exact orRaise_next_or_fault _ overflow
  case drw => exact orRaise_next_or_fault _ (load _)
  case loadRegs => exact orRaise_next_or_fault _ (load _)
  case ldB => exact orRaise_next_or_fault _ (store _)
  case dumpRegs => exact orRaise_next_or_fault _ (store _)
  case skp => exact .inl (ite_next _ _ _)
  case ldVxK => exact .inl (ite_next _ _ _)
  all_goals exact .inl ⟨_, rfl⟩

/-- A step completes or reports a fault that says what it may say: the fetch's, or else the instruction's (R90, R175). -/
theorem step_next_or_fault (s : State) : (∃ t, step s = .next t) ∨ ∃ f, step s = .fault f ∧ f.Reportable := by
  cases hfetch : s.fetch with
  | error f => exact .inr ⟨f, (step_fault s f).mpr (.inl hfetch), fetch_error_reportable hfetch⟩
  | ok i =>
    rw [step_of_fetch hfetch]
    exact (exec_next_or_fault i s).imp_right fun ⟨f, hf, h⟩ => ⟨f, h, instrFaults_reportable hf⟩

/-- Settles O10. -/
theorem stepCompletesOrReports : Obligations.StepCompletesOrReports := by
  refine fun s => (step_next_or_fault s).imp_right fun ⟨f, hstep, hf⟩ => ⟨f, hstep, ?_, ?_⟩
  · rintro a rfl
    exact hf
  · rintro w rfl
    exact hf

end Sys2Proof.Machine
end

section
/-! SUPPORT. Settles the statements about jumps, calls, returns and skips: every word of a family decodes by its fields,
and each instruction's next state is read off (41_control_flow.md). -/

namespace Sys2Proof

/-- The family of a word, from its top four bits masked out (R75). -/
theorem wordFamily_of_mask {w b : Word} (h : w &&& 0xF000 = b) : wordFamily w = wordFamily b := by
  have hmask : (0xF000 : Word).extractLsb' 12 4 = BitVec.allOnes 4 := rfl
  rw [← h, wordFamily, wordFamily, BitVec.extractLsb'_and, hmask, BitVec.and_allOnes]

section
variable {w : Word}

theorem decodeWord_jp (h : w &&& 0xF000 = 0x1000) : decodeWord w = some (.jp (wordNNN w)) := by
  have hf : wordFamily w = 0x1#4 := wordFamily_of_mask h
  simp only [decodeWord, hf]

theorem decodeWord_seImm (h : w &&& 0xF000 = 0x3000) : decodeWord w = some (.seImm (wordX w) (wordNN w)) := by
  have hf : wordFamily w = 0x3#4 := wordFamily_of_mask h
  simp only [decodeWord, hf]

theorem decodeWord_sneImm (h : w &&& 0xF000 = 0x4000) : decodeWord w = some (.sneImm (wordX w) (wordNN w)) := by
  have hf : wordFamily w = 0x4#4 := wordFamily_of_mask h
  simp only [decodeWord, hf]

end

end Sys2Proof

namespace Sys2Proof.Machine

variable (s : State)

/-- Setting `PC` changes no other part of the state. -/
theorem frame_setPc (a : Word) : Frame [.pc] s (s.setPc a) := by
  simp [Frame]

/-- The skip is a write of `PC`. -/
theorem frame_skipIf (c : Bool) : Frame [.pc] s (s.skipIf c) := frame_setPc s _

@[simp] theorem setPc_slot (a : Word) (k : Nat) : (s.setPc a).slot k = s.slot k := rfl
@[simp] theorem setSp_slot (n : Fin 17) (k : Nat) : (s.setSp n).slot k = s.slot k := rfl

/-! ### Jumps -/

theorem zext12_toNat (nnn : Addr12) : (zext12 nnn).toNat = nnn.toNat := BitVec.toNat_setWidth_of_le (by decide)

/-- The sum never wraps: it is at most 0x10FE (R107). -/
theorem offsetTarget_toNat (nnn : Addr12) (b : Byte) : (offsetTarget nnn b).toNat = nnn.toNat + b.toNat := by
  have hnnn := nnn.isLt
  have hb := b.isLt
  rw [offsetTarget_eq, BitVec.toNat_ofNat, Nat.mod_eq_of_lt (by omega)]

/-- Settles O35. -/
theorem jumpSetsTheCounter : Obligations.JumpSetsTheCounter :=
  ⟨fun _ h => decodeWord_jp h, fun nnn s => ⟨_, rfl, zext12_toNat nnn, frame_setPc s _⟩,
    fun nnn s => ⟨_, rfl, offsetTarget_toNat nnn _, frame_setPc s _⟩⟩

/-! ### Calls and returns -/

/-- Settles O37. -/
theorem callPushesItsOwnAddress : Obligations.CallPushesItsOwnAddress := by
  refine fun nnn s => ⟨fun h => ⟨_, exec_call_eq_next.mpr ⟨h, rfl⟩, ?_, rfl, fun k hk => ?_, zext12_toNat nnn, ?_⟩,
    execCall_fault s nnn⟩
  · rw [setPc_slot, setSp_slot, slot_setStack_set, if_pos rfl]
  · rw [setPc_slot, setSp_slot, slot_setStack_set, if_neg hk]
  · simp [Frame]

/-- Settles O38. -/
theorem returnGoesPastTheCall : Obligations.ReturnGoesPastTheCall := by
  refine fun s => ⟨fun h => ⟨_, exec_ret_eq_next.mpr ⟨Nat.ne_of_gt h, rfl⟩, rfl, ?_, ?_⟩, execRet_fault s⟩
  · exact BitVec.toNat_add _ _
  · simp [Frame]

/-- The return from a call leaves the caller's state, but for the slot the call filled and `PC` 2 past the call. -/
theorem exec_ret_of_exec_call {nnn : Addr12} {t : State} (h : s.sp.val < 16) (hcall : exec (.call nnn) s = .next t) :
    exec .ret t = .next ((s.setStack (s.stack.set s.sp.val s.pc h)).setPc (s.pc + 2)) := by
  obtain ⟨-, rfl⟩ := exec_call_eq_next.mp hcall
  refine exec_ret_eq_next.mpr ⟨Nat.succ_ne_zero _, ?_⟩
  have htop : (s.setStack (s.stack.set s.sp.val s.pc h)).slot s.sp.val = s.pc :=
    (slot_setStack_set s _ _ _ h).trans (if_pos rfl)
  simp only [setPc_slot, setSp_slot, setPc_sp, setSp_sp, Nat.add_sub_cancel, htop]
  rfl

/-- Settles O39. -/
theorem callThenReturnRestores : Obligations.CallThenReturnRestores := by
  intro nnn s h
  obtain ⟨t, hcall, -⟩ := (callPushesItsOwnAddress nnn s).1 h
  refine ⟨t, _, hcall, exec_ret_of_exec_call s h hcall, rfl, ?_, fun k hk => ?_⟩
  · simp [Frame]
  · rw [setPc_slot, slot_setStack_set, if_neg (Nat.ne_of_lt hk)]

/-! ### Skips -/

theorem skipIf_beq_pc (a b : Byte) : (s.skipIf (a == b)).pc = if a = b then s.pc + 4 else s.pc + 2 := by
  simp only [skipIf_pc, beq_iff_eq]

theorem skipIf_bne_pc (a b : Byte) : (s.skipIf (a != b)).pc = if a ≠ b then s.pc + 4 else s.pc + 2 := by
  simp only [skipIf_pc, bne_iff_ne]

/-- Settles O40. -/
theorem skipOnImmediate : Obligations.SkipOnImmediate :=
  ⟨fun _ h => decodeWord_seImm h, fun _ h => decodeWord_sneImm h, fun x nn s =>
    ⟨_, _, rfl, skipIf_beq_pc s (s.getV x) nn, frame_skipIf s _, rfl, skipIf_bne_pc s (s.getV x) nn, frame_skipIf s _⟩⟩

/-- Settles O41. -/
theorem skipOnRegister : Obligations.SkipOnRegister := by
  intro x y s
  have heq := skipIf_beq_pc s (s.getV x) (s.getV y)
  have hne := skipIf_bne_pc s (s.getV x) (s.getV y)
  refine ⟨_, _, rfl, heq, frame_skipIf s _, rfl, hne, frame_skipIf s _, fun hxy => ?_⟩
  have hread : s.getV x = s.getV y := congrArg s.getV hxy
  exact ⟨heq.trans (if_pos hread), hne.trans (if_neg (not_not.mpr hread))⟩

end Sys2Proof.Machine
end

section
/-! SUPPORT. Settles the statements about the registers and the ALU: the register and the flag written are read off the
state, and the numbers the spec gives are those of the model's words (42_alu.md), and that only `RND` reaches the random
source (R131) and nothing the font (10_state.md R33). -/

namespace Sys2Proof

theorem decodeWord_ldImm {w : Word} (h : w &&& 0xF000 = 0x6000) :
    decodeWord w = some (.ldImm (wordX w) (wordNN w)) := by
  have hf : wordFamily w = 0x6#4 := wordFamily_of_mask h
  simp only [decodeWord, hf]

theorem decodeWord_addImm {w : Word} (h : w &&& 0xF000 = 0x7000) :
    decodeWord w = some (.addImm (wordX w) (wordNN w)) := by
  have hf : wordFamily w = 0x7#4 := wordFamily_of_mask h
  simp only [decodeWord, hf]

end Sys2Proof

namespace Sys2Proof.Machine

/-! ### The random source and the font -/

theorem draws_not_reached {i : Instr} (hrnd : ∀ x nn, i ≠ .rnd x nn) : Part.draws ∉ reaches i := by
  cases i <;> simp [reaches] at hrnd ⊢

/-- The state with another font, as a parameter. -/
def State.setFont (s : State) (font : Vector Byte 80) : State := s.setParams { s.params with font := font }

/-- The font is no part an instruction reaches, and no rule about latches. -/
theorem unnoticed_setFont (font : Vector Byte 80) (i : Instr) : Unnoticed (·.setFont font) i :=
  ⟨fun q _ => by cases q <;> exact fun _ => ⟨rfl, fun _ => rfl⟩, fun _ _ => ⟨rfl, rfl, rfl⟩⟩

/-- Settles O21. -/
theorem instructionsIgnoreRandomSourceAndFont : Obligations.InstructionsIgnoreRandomSourceAndFont :=
  ⟨fun _ s n hrnd => exec_withPart (s.setDraws n) s (draws_not_reached hrnd),
    fun i s font => exec_mapNext (unnoticed_setFont font i) s⟩

/-! ### What a register instruction leaves -/

section
variable (s : State)

theorem frame_setRegs_setPc (v : Vector Byte 16) (a : Word) : Frame [.regs, .pc] s ((s.setRegs v).setPc a) := by
  simp [Frame]

theorem frame_setV_advance (x : Reg) (b : Byte) : Frame [.regs, .pc] s (s.setV x b).advance :=
  frame_setRegs_setPc s _ _

theorem frame_setResultAndFlag_advance (x : Reg) (a b : Byte) :
    Frame [.regs, .pc] s (s.setResultAndFlag x a b).advance :=
  frame_setRegs_setPc s _ _

theorem regsKept_setV_advance (x : Reg) (b : Byte) : RegsKept [x] s (s.setV x b).advance := by
  intro r hr
  rw [advance_getV, getV_setV_ne s x r b fun e => hr (List.mem_singleton.mpr e)]

theorem regsKept_setResultAndFlag_advance (x : Reg) (a b : Byte) :
    RegsKept [x, 0xF#4] s (s.setResultAndFlag x a b).advance := by
  intro r hr
  simp only [List.mem_cons, List.not_mem_nil, or_false, not_or] at hr
  rw [advance_getV, setResultAndFlag_other s x r a b hr.1 hr.2]

theorem getV_setV_advance (x : Reg) (b : Byte) : (s.setV x b).advance.getV x = b := getV_setV_same s x b

theorem getV_setResultAndFlag_advance {x : Reg} (a b : Byte) (hx : x ≠ 0xF#4) :
    (s.setResultAndFlag x a b).advance.getV x = a := setResultAndFlag_dest s x a b hx

theorem getV_flag_setResultAndFlag_advance (x : Reg) (a b : Byte) :
    (s.setResultAndFlag x a b).advance.getV 0xF#4 = b := setResultAndFlag_flag s x a b

end

/-! ### The numbers of the results and of the flags (R118) -/

section
variable (a b : Byte)

theorem byte_sub_toNat : (a - b).toNat = (a.toNat + 256 - b.toNat) % 256 := by bv_omega

theorem flagOf_toNat (c : Bool) : (flagOf c).toNat = c.toNat := by cases c <;> rfl

theorem carryFlag_toNat : (carryFlag a b).toNat = if a.toNat + b.toNat > 255 then 1 else 0 := by
  rw [carryFlag, flagOf_toNat, Bool.toNat, Bool.cond_decide]

theorem notBorrowFlag_toNat : (notBorrowFlag a b).toNat = if b.toNat > a.toNat then 0 else 1 := by
  rw [notBorrowFlag, flagOf_toNat, Bool.toNat, Bool.cond_not, Bool.cond_decide]

theorem shiftRightFlag_toNat : (shiftRightFlag a).toNat = a.toNat % 2 := by
  rw [shiftRightFlag, flagOf_toNat, BitVec.getLsbD, Nat.toNat_testBit, Nat.pow_zero, Nat.div_one]

/-- Bit 7 is the highest, so no remainder is taken. -/
theorem shiftLeftFlag_toNat : (shiftLeftFlag a).toNat = a.toNat / 128 := by
  have ha := a.isLt
  rw [shiftLeftFlag, flagOf_toNat, BitVec.getLsbD, Nat.toNat_testBit]
  omega

end

/-! ### The instructions -/

/-- Settles O42. -/
theorem immediateLoadAndAdd : Obligations.ImmediateLoadAndAdd := by
  refine ⟨fun _ h => decodeWord_ldImm h, fun _ h => decodeWord_addImm h, fun x nn s =>
    ⟨_, _, rfl, getV_setV_advance s x nn, regsKept_setV_advance s x _, rfl, frame_setV_advance s x _,
      rfl, ?_, regsKept_setV_advance s x _, rfl, frame_setV_advance s x _⟩⟩
  rw [getV_setV_advance, BitVec.toNat_add]

/-- Settles O43. -/
theorem assignAndLogicLeaveTheFlag : Obligations.AssignAndLogicLeaveTheFlag := by
  refine fun x y s => ⟨_, _, _, _, rfl, getV_setV_advance s x _, rfl, fun k => ?_, rfl, fun k => ?_, rfl, fun k => ?_, ?_⟩
  · rw [getV_setV_advance, BitVec.getLsbD_or]
  · rw [getV_setV_advance, BitVec.getLsbD_and]
  · rw [getV_setV_advance, BitVec.getLsbD_xor]
  · have kept (b : Byte) : RegsKept [x] s (s.setV x b).advance ∧ (s.setV x b).advance.pc = s.pc + 2 ∧
        Frame [.regs, .pc] s (s.setV x b).advance :=
      ⟨regsKept_setV_advance s x b, rfl, frame_setV_advance s x b⟩
    exact List.forall_mem_cons.mpr ⟨kept _, List.forall_mem_cons.mpr ⟨kept _, List.forall_mem_cons.mpr ⟨kept _,
      List.forall_mem_singleton.mpr (kept _)⟩⟩⟩

/-- Settles O44. -/
theorem addWritesSumThenCarry : Obligations.AddWritesSumThenCarry := by
  refine fun x y s => ⟨_, rfl, fun hx => ?_, ?_, regsKept_setResultAndFlag_advance s x _ _, rfl,
    frame_setResultAndFlag_advance s x _ _⟩
  · rw [getV_setResultAndFlag_advance s _ _ hx, BitVec.toNat_add]
  · rw [getV_flag_setResultAndFlag_advance, carryFlag_toNat]

/-- Settles O45: the two differ in which operand is the subtrahend. -/
theorem subtractWritesDifferenceThenNotBorrow : Obligations.SubtractWritesDifferenceThenNotBorrow := by
  refine fun x y s =>
    ⟨_, _, rfl, fun hx => ?_, ?_, regsKept_setResultAndFlag_advance s x _ _, rfl, frame_setResultAndFlag_advance s x _ _,
      rfl, fun hx => ?_, ?_, regsKept_setResultAndFlag_advance s x _ _, rfl, frame_setResultAndFlag_advance s x _ _⟩
  · rw [getV_setResultAndFlag_advance s _ _ hx, byte_sub_toNat]
  · rw [getV_flag_setResultAndFlag_advance, notBorrowFlag_toNat]
  · rw [getV_setResultAndFlag_advance s _ _ hx, byte_sub_toNat]
  · rw [getV_flag_setResultAndFlag_advance, notBorrowFlag_toNat]

/-- Settles O46. -/
theorem shiftsPutOutOneBit : Obligations.ShiftsPutOutOneBit := by
  refine fun x s =>
    ⟨_, _, rfl, fun hx => ?_, ?_, regsKept_setResultAndFlag_advance s x _ _, rfl, frame_setResultAndFlag_advance s x _ _,
      rfl, fun hx => ?_, ?_, regsKept_setResultAndFlag_advance s x _ _, rfl, frame_setResultAndFlag_advance s x _ _⟩
  · rw [getV_setResultAndFlag_advance s _ _ hx, BitVec.toNat_ushiftRight, Nat.shiftRight_eq_div_pow]
  · rw [getV_flag_setResultAndFlag_advance, shiftRightFlag_toNat]
  · rw [getV_setResultAndFlag_advance s _ _ hx, BitVec.toNat_shiftLeft, Nat.shiftLeft_eq]
  · rw [getV_flag_setResultAndFlag_advance, shiftLeftFlag_toNat]

/-- Settles O47: the count of random bytes is no register, so what holds of any register write holds here. -/
theorem randomByteIsMasked : Obligations.RandomByteIsMasked := by
  refine fun x nn s => ⟨_, _, rfl, rfl, fun k => ?_, regsKept_setV_advance s x _, rfl, rfl, ?_⟩
  · rw [setDraws_getV, State.rndWith, getV_setV_advance, BitVec.getLsbD_and]
  · simp [Frame, State.rndWith]

end Sys2Proof.Machine
end

section
/-! SUPPORT. Settles the statements about the index register and the instructions that reach memory through it: where a
store or a load completes, it is the byte-by-byte write or read of `Laws/Memory.lean`, and else the fault of R52
(43_index_memory.md). -/

namespace Sys2Proof

theorem decodeWord_ldI {w : Word} (h : w &&& 0xF000 = 0xA000) : decodeWord w = some (.ldI (wordNNN w)) := by
  have hf : wordFamily w = 0xA#4 := wordFamily_of_mask h
  simp only [decodeWord, hf]

/-- The family and the low byte of a word, from all but its bits 11:8 masked out (R75). -/
theorem family_and_nn_of_mask {w b : Word} (h : w &&& 0xF0FF = b) :
    wordFamily w = wordFamily b ∧ wordNN w = wordNN b := by
  have hnn : (0xF0FF : Word).extractLsb' 0 8 = BitVec.allOnes 8 := rfl
  have hfamily : (0xF0FF : Word).extractLsb' 12 4 = BitVec.allOnes 4 := rfl
  constructor
  · rw [← h, wordFamily, wordFamily, BitVec.extractLsb'_and, hfamily, BitVec.and_allOnes]
  · rw [← h, wordNN, wordNN, BitVec.extractLsb'_and, hnn, BitVec.and_allOnes]

theorem decodeWord_ldF {w : Word} (h : w &&& 0xF0FF = 0xF029) : decodeWord w = some (.ldF (wordX w)) := by
  obtain ⟨hfamily, hnn⟩ := family_and_nn_of_mask h
  have hf : wordFamily w = 0xF#4 := hfamily
  have hkey : wordNN w = 0x29#8 := hnn
  simp only [decodeWord, hf, decodeFamilyF, hkey]

end Sys2Proof

namespace Sys2Proof.Machine

variable (s : State)

/-! ### The index register -/

theorem frame_setI_advance (a : Word) : Frame [.i, .pc] s (s.setI a).advance := by
  simp [Frame]

/-- The address never wraps: it is at most 75 (R142). -/
theorem glyphAddr_toNat (b : Byte) : (glyphAddr b).toNat = b.toNat % 16 * 5 := by
  have hnibble : (b &&& 0x0F#8).toNat = b.toNat % 16 := keyIndex_eq b
  rw [glyphAddr, zext8, BitVec.toNat_mul, BitVec.toNat_setWidth, hnibble]
  change b.toNat % 16 % 65536 * 5 % 65536 = b.toNat % 16 * 5
  omega

theorem add_zext8_toNat (a : Word) (b : Byte) : (a + zext8 b).toNat = (a.toNat + b.toNat) % 65536 := by
  rw [BitVec.toNat_add, zext8, BitVec.toNat_setWidth_of_le (by decide)]

/-- Settles O48. -/
theorem indexLoads : Obligations.IndexLoads :=
  ⟨fun _ h => decodeWord_ldI h, fun _ h => decodeWord_ldF h, fun nnn _ s =>
    ⟨_, _, rfl, zext12_toNat nnn, rfl, frame_setI_advance s _, rfl, glyphAddr_toNat _, rfl, frame_setI_advance s _⟩⟩

/-- Settles O49. -/
theorem indexAddWrapsAtSixteenBits : Obligations.IndexAddWrapsAtSixteenBits :=
  fun _ s => ⟨_, rfl, add_zext8_toNat s.i _, rfl, frame_setI_advance s _⟩

/-! ### Stores -/

theorem frame_setMem_advance (m : Memory) : Frame [.mem, .pc] s (s.setMem m).advance := by
  simp [Frame]

/-- The `k`-th of the bytes written in a row is read back `k` above the first. -/
theorem read_writeBytes_add (m : Memory) (a : Nat) {us : List Byte} {k : Nat} (hk : k < us.length) :
    (m.writeBytes a us).read (a + k) = us.getD k 0 := by
  rw [read_writeBytes, if_pos (by omega), Nat.add_sub_cancel_left]

/-- The bytes of the decimal store are the three decimal digits of the value (R143). -/
theorem bcdDigits_spec (b : Byte) : ∃ h d u : Byte, bcdDigits b = [h, d, u] ∧
    h.toNat < 10 ∧ d.toNat < 10 ∧ u.toNat < 10 ∧ h.toNat * 100 + d.toNat * 10 + u.toNat = b.toNat := by
  have hb := b.isLt
  refine ⟨_, _, _, rfl, ?_⟩
  simp only [BitVec.toNat_ofNat]
  omega

/-- Settles O50: the digits are read back from the three bytes written, and no other byte is written. -/
theorem decimalStoreWritesThreeDigits : Obligations.DecimalStoreWritesThreeDigits := by
  refine fun x s => ⟨fun hin => ⟨_, execLdB_next s x hin, ?_, rfl, frame_setMem_advance s _⟩, execLdB_fault s x⟩
  obtain ⟨h, d, u, hdigits, hh, hd, hu, hsum⟩ := bcdDigits_spec (s.getV x)
  rw [hdigits]
  have hread {k : Nat} (hk : k < 3) := read_writeBytes_add s.mem (effAddr s.i 0) (us := [h, d, u]) hk
  have hfirst : (s.mem.writeBytes (effAddr s.i 0) [h, d, u]).read (effAddr s.i 0) = h := hread (by decide : 0 < 3)
  have hkept := bytesKept_writeBytes s (effAddr s.i 0) [h, d, u]
  simp only [advance_mem, setMem_mem, hfirst, hread (by decide : 1 < 3), hread (by decide : 2 < 3)]
  exact ⟨hh, hd, hu, hsum, hkept⟩

/-- Settles O51: byte `r` of the dump is `V[r]`, and `x + 1` bytes are written. -/
theorem registerDumpStoresInOrder : Obligations.RegisterDumpStoresInOrder := by
  refine fun x s => ⟨fun hin => ⟨_, execDumpRegs_next s x hin, fun r hr => ?_, ?_, rfl, frame_setMem_advance s _⟩,
    execDumpRegs_fault s x⟩
  · have hlen : r.toNat < (s.regsUpTo x).length := by rw [regsUpTo_length]; omega
    exact (read_writeBytes_add s.mem _ hlen).trans (regsUpTo_getD s x r hr)
  · have hkept := bytesKept_writeBytes s (effAddr s.i 0) (s.regsUpTo x)
    rwa [regsUpTo_length] at hkept

/-! ### Loads -/

/-- The registers up to the last byte loaded from register 0 up hold the bytes (R145). -/
theorem setRegs_loadFrom_getV_of_lt (us : List Byte) {r : Reg} (h : r.toNat < us.length) :
    (s.setRegs (loadFrom s.v 0 us)).getV r = us.getD r.toNat 0 := by
  have hload := loadFrom_getElem us s.v 0 r.toNat r.isLt
  rwa [if_pos (by omega)] at hload

/-- Settles O52: register `r` is filled where it is among the `x + 1` bytes loaded, and kept where it is past them. -/
theorem registerLoadFillsInOrder : Obligations.RegisterLoadFillsInOrder := by
  refine fun x s => ⟨fun hin => ⟨_, execLoadRegs_next s x hin, fun r hr => ?_, fun r hr => ?_, rfl,
    frame_setRegs_setPc s _ _⟩, execLoadRegs_fault s x⟩
  · have hlt : r.toNat < x.toNat + 1 := Nat.lt_succ_of_le hr
    rw [advance_getV, setRegs_loadFrom_getV_of_lt s _ (by rwa [readBytes_length]), readBytes_getD _ _ _ _ hlt]
    rfl
  · rw [advance_getV, setRegs_loadFrom_getV s _ r (by rwa [readBytes_length])]

end Sys2Proof.Machine
end

section
/-! SUPPORT. Settles the statements about the display (44_display.md): a draw is the XOR of the whole sprite pixel by
pixel, with the collision in `VF`, and what R152 says of draws follows from that alone. -/

namespace Sys2Proof

theorem decodeWord_cls {w : Word} (h : w &&& 0xF0FF = 0x00E0) : decodeWord w = some .cls := by
  obtain ⟨hfamily, hnn⟩ := family_and_nn_of_mask h
  have hf : wordFamily w = 0x0#4 := hfamily
  have hkey : wordNN w = 0xE0#8 := hnn
  simp only [decodeWord, hf, decodeFamily0, hkey]

end Sys2Proof

namespace Sys2Proof.Machine

/-! ### A sprite's cells, the flag and the pixels of the grid -/

theorem cell_blankDisplay (k : Nat) : blankDisplay.cell k = false := by
  simp only [Display.cell, Display.row, blankDisplay, Vector.getElem?_replicate]
  split <;> simp

theorem rowsHit_lt {x0 y0 r j : Nat} {rows : List Byte} (h : rowsHit x0 y0 r rows j = true) : j < 2048 := by
  simp only [rowsHit, rowHits, Bool.and_eq_true, decide_eq_true_eq] at h
  omega

theorem flagOf_eq_one : ∀ {c : Bool}, flagOf c = 1 ↔ c = true := by decide

theorem flagOf_eq_zero_or_one : ∀ c : Bool, flagOf c = 0 ∨ flagOf c = 1 := by decide

theorem disp_ext_pixel {s t : State} (h : ∀ px py, px < 64 → py < 32 → s.pixel px py = t.pixel px py) :
    s.disp = t.disp :=
  disp_ext fun k hk => by
    have hpixel := h (k % 64) (k / 64) (by omega) (by omega)
    rwa [State.pixel, State.pixel, Nat.div_add_mod'] at hpixel

theorem pixel_of_blank {s : State} (h : ∀ k, k < 2048 → s.disp.cell k = false) {px py : Nat} (hx : px < 64)
    (hy : py < 32) : s.pixel px py = false :=
  h _ (by omega)

/-- A sprite right of the grid, below it or without rows has no 1 bit on the grid (log entries 18, 19). -/
theorem spritePixel_off_grid {x0 y0 : Nat} {rows : List Byte} (h : x0 ≥ 64 ∨ y0 ≥ 32 ∨ rows.length = 0) {px py : Nat}
    (hx : px < 64) (hy : py < 32) : spritePixel x0 y0 rows px py = false := by
  rw [spritePixel, decide_eq_false (by omega), Bool.false_and]

/-! ### One draw -/

/-- The sprite `DRW Vx,Vy,n` draws in a state, pixel by pixel (R151). -/
def State.spriteOf (s : State) (x y : Reg) (n : BitVec 4) : Nat → Nat → Bool :=
  spritePixel (s.getV x).toNat (s.getV y).toNat (s.mem.readBytes (effAddr s.i 0) n.toNat)

section
variable (s : State) (x y : Reg) (rows : List Byte)

@[simp] theorem drawSprite_i : (s.drawSprite x y rows).i = s.i := rfl
@[simp] theorem drawSprite_mem : (s.drawSprite x y rows).mem = s.mem := rfl

theorem drawSprite_pixel {px py : Nat} (hx : px < 64) (hy : py < 32) : (s.drawSprite x y rows).pixel px py =
    (s.pixel px py ^^ spritePixel (s.getV x).toNat (s.getV y).toNat rows px py) := by
  rw [← rowsHit_pixel _ _ _ _ _ hx hy]
  exact (drawRows_spec _ _ rows 0 (s.disp, false)).1 _

theorem drawSprite_flag : (s.drawSprite x y rows).getV 0xF#4 =
    flagOf (drawRows (s.getV x).toNat (s.getV y).toNat 0 rows (s.disp, false)).2 :=
  getV_setV_same (s.setDisp _) flagReg _

/-- The cells a sprite reaches are on the grid, so a collision is one on a pixel of the grid. -/
theorem drawSprite_collides : (s.drawSprite x y rows).getV 0xF#4 = 1 ↔ ∃ px py, px < 64 ∧ py < 32 ∧
    spritePixel (s.getV x).toNat (s.getV y).toNat rows px py = true ∧ s.pixel px py = true := by
  rw [drawSprite_flag, flagOf_eq_one, (drawRows_spec _ _ rows 0 (s.disp, false)).2]
  constructor
  · rintro (hno | ⟨j, hhit, hcell⟩)
    · exact absurd hno Bool.false_ne_true
    · have hj := rowsHit_lt hhit
      rw [← Nat.div_add_mod' j 64] at hhit hcell
      rw [rowsHit_pixel _ _ _ _ _ (by omega) (by omega)] at hhit
      exact ⟨j % 64, j / 64, by omega, by omega, hhit, hcell⟩
  · rintro ⟨px, py, hx, hy, hbit, hcell⟩
    rw [← rowsHit_pixel _ _ _ _ _ hx hy] at hbit
    exact .inr ⟨_, hbit, hcell⟩

theorem drawSprite_regsKept : RegsKept [0xF#4] s (s.drawSprite x y rows) :=
  fun r hr => drawSprite_getV_ne s x y r rows fun e => hr (List.mem_singleton.mpr e)

theorem drawSprite_frame : Frame [.regs, .disp, .dirty, .pc] s (s.drawSprite x y rows) := by
  simp [Frame, State.drawSprite]

end

section
variable {s t : State} {x y : Reg} {n : BitVec 4}

theorem exec_drw_eq_next (h : exec (.drw x y n) s = .next t) :
    t = s.drawSprite x y (s.mem.readBytes (effAddr s.i 0) n.toNat) := by
  obtain ⟨rows, hload, rfl⟩ := (orRaise_next_value _ _ t).mp h
  rw [((load_ok _ _ _ _).mp hload).2]

theorem exec_drw_pixel (h : exec (.drw x y n) s = .next t) {px py : Nat} (hx : px < 64) (hy : py < 32) :
    t.pixel px py = (s.pixel px py ^^ s.spriteOf x y n px py) := by
  rw [exec_drw_eq_next h, drawSprite_pixel s x y _ hx hy, State.spriteOf]

theorem exec_drw_collides (h : exec (.drw x y n) s = .next t) : t.getV 0xF#4 = 1 ↔
    ∃ px py, px < 64 ∧ py < 32 ∧ s.spriteOf x y n px py = true ∧ s.pixel px py = true := by
  rw [exec_drw_eq_next h, drawSprite_collides, State.spriteOf]

theorem exec_drw_flag (h : exec (.drw x y n) s = .next t) : t.getV 0xF#4 = 0 ∨ t.getV 0xF#4 = 1 := by
  rw [exec_drw_eq_next h, drawSprite_flag]
  exact flagOf_eq_zero_or_one _

theorem exec_drw_no_collision (h : exec (.drw x y n) s = .next t)
    (hno : ∀ px py, px < 64 → py < 32 → s.spriteOf x y n px py = true → s.pixel px py = false) : t.getV 0xF#4 = 0 := by
  refine (exec_drw_flag h).resolve_right fun hone => ?_
  obtain ⟨px, py, hx, hy, hbit, hcell⟩ := (exec_drw_collides h).mp hone
  exact Bool.false_ne_true ((hno px py hx hy hbit).symm.trans hcell)

/-- A draw keeps its own sprite, where its position is not in `VF` (R152). -/
theorem exec_drw_spriteOf (hx : x ≠ 0xF#4) (hy : y ≠ 0xF#4) (h : exec (.drw x y n) s = .next t) :
    t.spriteOf x y n = s.spriteOf x y n := by
  rw [exec_drw_eq_next h, State.spriteOf, State.spriteOf, drawSprite_i, drawSprite_mem,
    drawSprite_getV_ne s x y x _ hx, drawSprite_getV_ne s x y y _ hy]

end

/-! ### The statements -/

/-- Settles O54. -/
theorem drawXorsTheSprite : Obligations.DrawXorsTheSprite := by
  refine fun x y n s => ⟨fun hin => ?_, fun h0 hout => execDrw_fault s x y n (by omega) (by omega)⟩
  have h : exec (.drw x y n) s = _ := execDrw_next s x y n (by omega)
  exact ⟨_, h, fun _ _ => exec_drw_pixel h, exec_drw_collides h, exec_drw_flag h,
    drawSprite_regsKept s x y _, rfl, rfl, drawSprite_frame s x y _⟩

/-- Settles O55: the second draw XORs the same sprite, and meets a set cell where the first found the cell 0. -/
theorem drawTwiceRestoresTheDisplay : Obligations.DrawTwiceRestoresTheDisplay := by
  intro x y n s t u hx hy hfirst hsecond rows bit
  have hbit : t.spriteOf x y n = bit := exec_drw_spriteOf hx hy hfirst
  have htpixel {px py} (hpx : px < 64) (hpy : py < 32) : t.pixel px py = (s.pixel px py ^^ bit px py) :=
    exec_drw_pixel hfirst hpx hpy
  have hflag : u.getV 0xF#4 = 1 ↔ ∃ px py, px < 64 ∧ py < 32 ∧ bit px py = true ∧ s.pixel px py = false := by
    rw [exec_drw_collides hsecond, hbit]
    refine exists₂_congr fun px py => and_congr_right fun hpx => and_congr_right fun hpy => and_congr_right fun hb => ?_
    rw [htpixel hpx hpy, hb, Bool.xor_true, Bool.not_eq_true']
  refine ⟨disp_ext_pixel fun px py hpx hpy => ?_, hflag, fun hblank => hflag.trans ?_⟩
  · rw [exec_drw_pixel hsecond hpx hpy, hbit, htpixel hpx hpy, Bool.xor_assoc, Bool.xor_self, Bool.xor_false]
  · exact exists₂_congr fun px py => and_congr_right fun hpx => and_congr_right fun hpy =>
      and_iff_left (pixel_of_blank hblank hpx hpy)

/-- Settles O56: no 1 bit meets a set cell, as no cell is set or as no 1 bit is on the grid. -/
theorem drawOffGridOrOnBlankDoesNotCollide : Obligations.DrawOffGridOrOnBlankDoesNotCollide := by
  refine fun x y n s t h => ⟨fun hblank => ?_, fun hoff => ?_⟩
  · exact exec_drw_no_collision h fun px py hpx hpy _ => pixel_of_blank hblank hpx hpy
  · have hbit {px py} (hpx : px < 64) (hpy : py < 32) : s.spriteOf x y n px py = false :=
      spritePixel_off_grid (by rwa [readBytes_length]) hpx hpy
    refine ⟨disp_ext_pixel fun px py hpx hpy => ?_, exec_drw_no_collision h fun px py hpx hpy hone => ?_⟩
    · rw [exec_drw_pixel h hpx hpy, hbit hpx hpy, Bool.xor_false]
    · exact absurd ((hbit hpx hpy).symm.trans hone) Bool.false_ne_true

/-- Settles O53. -/
theorem clearScreenBlanksEveryCell : Obligations.ClearScreenBlanksEveryCell :=
  ⟨fun _ h => decodeWord_cls h, fun _ =>
    ⟨_, rfl, fun k _ => cell_blankDisplay k, rfl, rfl, by simp [Frame]⟩⟩

end Sys2Proof.Machine
end

section
/-! SUPPORT. Settles the statements about the key and timer instructions (45_keys_timers.md): the latches after an
instruction that may take one are said once, for `SKP` and for `LD Vx,K`. -/

namespace Sys2Proof

section
variable {w : Word}

/-- Family 0xF by its low byte, the word's bits 11:8 masked out (R75). -/
theorem decodeWord_familyF (nn : Byte) (h : w &&& 0xF0FF = 0xF#4 ++ 0#4 ++ nn) :
    decodeWord w = decodeFamilyF w ∧ wordNN w = nn := by
  obtain ⟨hfamily, hnn⟩ := family_and_nn_of_mask h
  rw [wordFamily_xnn] at hfamily
  exact ⟨by simp only [decodeWord, hfamily], hnn.trans (wordNN_xnn _ _ nn)⟩

theorem decodeWord_ldVxDt (h : w &&& 0xF0FF = 0xF007) : decodeWord w = some (.ldVxDt (wordX w)) := by
  obtain ⟨hword, hnn⟩ := decodeWord_familyF 0x07#8 h
  simp only [hword, decodeFamilyF, hnn]

theorem decodeWord_ldDtVx (h : w &&& 0xF0FF = 0xF015) : decodeWord w = some (.ldDtVx (wordX w)) := by
  obtain ⟨hword, hnn⟩ := decodeWord_familyF 0x15#8 h
  simp only [hword, decodeFamilyF, hnn]

theorem decodeWord_ldStVx (h : w &&& 0xF0FF = 0xF018) : decodeWord w = some (.ldStVx (wordX w)) := by
  obtain ⟨hword, hnn⟩ := decodeWord_familyF 0x18#8 h
  simp only [hword, decodeFamilyF, hnn]

end

end Sys2Proof

namespace Sys2Proof.Machine

/-! ### Latches -/

/-- The latches where one is cleared under a condition: that one is 0 then, every other is as before. -/
theorem getLsbD_ite_putKey_false (keys : BitVec 16) (c : Bool) {k : Nat} (hk : k < 16) (j : Nat) :
    (if c then putKey keys k false else keys).getLsbD j = (keys.getLsbD j && !(decide (j = k) && c)) := by
  cases c
  · simp
  · rw [if_pos rfl, putKey_getLsbD keys k j false hk]
    by_cases hj : j = k <;> simp [hj]

/-- Clearing a latch that is not set changes nothing. -/
theorem putKey_false_of_not_set {keys : BitVec 16} {k : Nat} (hk : k < 16) (h : keys.getLsbD k = false) :
    putKey keys k false = keys := by
  refine BitVec.eq_of_getLsbD_eq fun j _ => ?_
  rw [putKey_getLsbD keys k j false hk]
  split
  · next hj => rw [hj, h]
  · rfl

variable (s : State)

/-! ### `SKP` and `SKNP` -/

/-- `SKP` in one state, the latch tested named by the low nibble: where it does not skip, that latch is 0 already, so
that clearing it is no change (R160). -/
theorem exec_skp_next (x : Reg) : exec (.skp x) s = .next ((s.setKeys
    (if s.params.skpClearsLatch then putKey s.keys ((s.getV x).toNat % 16) false else s.keys)).skipIf
      (s.key ((s.getV x).toNat % 16))) := by
  rw [← keyIndex_eq, exec]
  cases hk : s.key (keyIndex (s.getV x))
  · rw [execSkp_not s x hk, putKey_false_of_not_set (keyIndex_lt _) hk, ite_self]
    rfl
  · cases hp : s.params.skpClearsLatch
    · exact execSkp_taken s x hk hp
    · exact execSkp_clear s x hk hp

theorem frame_setKeys_skipIf (keys : BitVec 16) (c : Bool) : Frame [.keys, .pc] s ((s.setKeys keys).skipIf c) := by
  simp [Frame]

theorem exec_sknp_next (x : Reg) : exec (.sknp x) s = .next (s.skipIf (!s.key ((s.getV x).toNat % 16))) := by
  rw [← keyIndex_eq]
  rfl

theorem skipIf_not_pc (c : Bool) : (s.skipIf (!c)).pc = if c then s.pc + 2 else s.pc + 4 := by
  cases c <;> rfl

/-- Settles O57. -/
theorem skipOnKeyLatch : Obligations.SkipOnKeyLatch := by
  refine fun x s => ⟨_, _, exec_skp_next s x, rfl, fun j => ?_, frame_setKeys_skipIf s _ _, exec_sknp_next s x,
    skipIf_not_pc s _, frame_skipIf s _⟩
  exact getLsbD_ite_putKey_false s.keys s.params.skpClearsLatch (Nat.mod_lt _ (by decide)) j

/-! ### `LD Vx,K` -/

theorem keys_eq_zero_of_no_key (h : ∀ k, k < 16 → s.key k = false) : s.keys = 0 :=
  BitVec.eq_of_getLsbD_eq fun k hk => (h k hk).trans BitVec.getLsbD_zero.symm

/-- With no `KEY_PICK` given the least latch is picked (log entry 5). -/
theorem pickKey_of_nil {p : Params} (h : p.keyPick = []) (keys : BitVec 16) : pickKey p keys = leastKey keys := by
  rw [pickKey, h]
  rfl

theorem takeKey_key (x : Reg) (k : BitVec 4) (j : Nat) : (s.takeKey x k).key j =
    (s.key j && !(decide (j = k.toNat) && s.params.waitKeyClearsLatch)) := by
  rw [State.key, takeKey_keys]
  exact getLsbD_ite_putKey_false s.keys s.params.waitKeyClearsLatch k.isLt j

theorem takeKey_regsKept (x : Reg) (k : BitVec 4) : RegsKept [x] s (s.takeKey x k) :=
  fun r hr => takeKey_getV_ne s x r k fun e => hr (List.mem_singleton.mpr e)

theorem takeKey_frame (x : Reg) (k : BitVec 4) : Frame [.regs, .keys, .pc] s (s.takeKey x k) := by
  unfold State.takeKey
  split <;> simp [Frame]

/-- Settles O58: the latch taken is the one picked, which is set whatever the parameters. -/
theorem keyWaitRepeatsUntilALatchIsSet : Obligations.KeyWaitRepeatsUntilALatchIsSet := by
  refine fun x s => ⟨fun hnone => execLdVxK_wait s x (keys_eq_zero_of_no_key s hnone), fun hsome => ?_⟩
  have hkeys : s.keys ≠ 0 := (exists_key_iff s).mp hsome
  refine ⟨_, (pickKey s.params s.keys).toNat, exec_ldVxK_next x s hkeys, (pickKey s.params s.keys).isLt,
    pickKey_set s.params s.keys hkeys, ?_, fun hpick => ?_, takeKey_key s x _, takeKey_regsKept s x _, takeKey_pc s x _,
    takeKey_frame s x _⟩
  · rw [takeKey_getV, BitVec.toNat_setWidth_of_le (by decide)]
  · rw [pickKey_of_nil hpick]
    exact (leastKey_spec s.keys hkeys).2

/-! ### Timers -/

theorem frame_setDt_advance (b : Byte) : Frame [.dt, .pc] s (s.setDt b).advance := by
  simp [Frame]

theorem frame_setSt_advance (b : Byte) : Frame [.st, .pc] s (s.setSt b).advance := by
  simp [Frame]

/-- Settles O60. -/
theorem timerMoves : Obligations.TimerMoves :=
  ⟨fun _ h => decodeWord_ldVxDt h, fun _ h => decodeWord_ldDtVx h, fun _ h => decodeWord_ldStVx h, fun x s =>
    ⟨_, _, _, rfl, getV_setV_advance s x _, regsKept_setV_advance s x _, rfl, frame_setV_advance s x _,
      rfl, rfl, rfl, frame_setDt_advance s _, rfl, rfl, rfl, frame_setSt_advance s _⟩⟩

end Sys2Proof.Machine
end

section
/-! SUPPORT. Settles the statements about faults and about the driver's transactions: the table of faults, what a
faulting step leaves, ticks, the dirty flag, one latch (60_exceptions.md R170 to R184). -/

namespace Sys2Proof.Machine

/-! ### The table of faults -/

/-- An answer that goes on where the condition fails, and faults where it holds, is the one a row of R171's table
names. -/
theorem answers_row {c : Prop} [Decidable c] {f : Fault} {r : Result} (hnext : ¬ c → ∃ t, r = .next t)
    (hfault : c → r = .fault f) :
    ((if c then some f else none) = none → ∃ t, r = .next t) ∧
      ∀ g, (if c then some f else none) = some g → r = .fault g := by
  by_cases h : c
  · simp [h, hfault h]
  · simp [h, hnext h]

/-- Settles O9: the six instructions the table names branch on its condition, the others complete. -/
theorem faultTableIsComplete : Obligations.FaultTableIsComplete := by
  intro i s
  cases i
  case call nnn =>
    exact answers_row (fun h => ⟨_, execCall_next s nnn (Nat.lt_of_le_of_ne (Nat.le_of_lt_succ s.sp.isLt) h)⟩)
      (execCall_fault s nnn)
  case ret => exact answers_row (fun h => ⟨_, execRet_next s h⟩) (execRet_fault s)
  case drw x y n =>
    refine answers_row (fun h => ⟨_, execDrw_next s x y n ?_⟩) fun h => execDrw_fault s x y n ?_ ?_ <;> omega
  case ldB x => exact answers_row (fun h => ⟨_, execLdB_next s x (Nat.le_of_not_lt h)⟩) (execLdB_fault s x)
  case dumpRegs x =>
    exact answers_row (fun h => ⟨_, execDumpRegs_next s x (Nat.le_of_not_lt h)⟩) (execDumpRegs_fault s x)
  case loadRegs x =>
    exact answers_row (fun h => ⟨_, execLoadRegs_next s x (Nat.le_of_not_lt h)⟩) (execLoadRegs_fault s x)
  case skp x => exact ⟨fun _ => ⟨_, exec_skp_next s x⟩, nofun⟩
  case ldVxK x => exact ⟨fun _ => ite_next _ _ _, nofun⟩
  all_goals exact ⟨fun _ => ⟨_, rfl⟩, nofun⟩

/-! ### A faulting step -/

section
variable {s : State} {f : Fault}

theorem stepReport_of_fault (h : step s = .fault f) : stepReport s = (s.afterFault f, some f) := by
  rw [stepReport, h]

theorem transact_step_of_fault (h : step s = .fault f) : transact .step s = (s.afterFault f, .fault f) := by
  rw [transact, stepReport_of_fault h]

/-- Only `UnknownOpcode` can leave another state than the one it found (R172). -/
theorem afterFault_of_ne_unknownOpcode (h : ∀ w, f ≠ .unknownOpcode w) : s.afterFault f = s := by
  cases f
  case unknownOpcode w => exact absurd rfl (h w)
  all_goals rfl

theorem afterFault_unknownOpcode (s : State) (w : Word) :
    s.afterFault (.unknownOpcode w) = if s.params.unkPcAdvances then s.setPc (s.pc + 2) else s := rfl

/-- A transaction that leaves the state as it is leaves it so however often it is repeated. -/
theorem after_replicate_of_fixed {tr : Transaction} (h : (transact tr s).1 = s) :
    ∀ n, s.after (List.replicate n tr) = s
  | 0 => rfl
  | n + 1 => by rw [List.replicate_succ, State.after, h, after_replicate_of_fixed h n]

end

/-- Settles O11. -/
theorem faultingStepChangesNothing : Obligations.FaultingStepChangesNothing := by
  intro s f h
  rw [stepReport_of_fault h]
  refine ⟨rfl, afterFault_of_ne_unknownOpcode, ?_, fun (hkept : s.afterFault f = s) n => ?_⟩
  · rintro w rfl
    rw [afterFault_unknownOpcode]
    exact ⟨fun hp => by simp [hp], fun hp => by simpa [hp] using frame_setPc s (s.pc + 2)⟩
  · have hstep : transact .step s = (s, .fault f) := by rw [transact_step_of_fault h, hkept]
    rw [after_replicate_of_fixed (by rw [hstep]), hstep]

/-! ### Ticks -/

theorem tick_toNat (b : Byte) : (tick b).toNat = b.toNat - 1 := by
  unfold tick
  split <;> bv_omega

theorem tick_iterate_toNat (n : Nat) (b : Byte) : (tick^[n] b).toNat = b.toNat - n := by
  induction n with
  | zero => rfl
  | succ n ih => rw [Function.iterate_succ_apply', tick_toNat, ih, Nat.sub_sub]

theorem after_replicate_timerTick : ∀ (n : Nat) (s : State),
    s.after (List.replicate n .timerTick) = (s.setDt (tick^[n] s.dt)).setSt (tick^[n] s.st)
  | 0, _ => rfl
  | n + 1, s => after_replicate_timerTick n s.timerTick

theorem frame_setDt_setSt (s : State) (a b : Byte) : Frame [.dt, .st] s ((s.setDt a).setSt b) := by
  simp [Frame]

/-- Settles O32. -/
theorem ticksCountDownToZero : Obligations.TicksCountDownToZero := by
  intro s n
  rw [after_replicate_timerTick]
  exact ⟨tick_iterate_toNat n s.dt, tick_iterate_toNat n s.st, frame_setDt_setSt s _ _⟩

/-! ### `ClearDirty` and `SetKey` -/

theorem frame_setDirty (s : State) (b : Bool) : Frame [.dirty] s (s.setDirty b) := by
  simp [Frame]

/-- Settles O33. -/
theorem clearDirtyClearsTheFlag : Obligations.ClearDirtyClearsTheFlag :=
  fun s => ⟨s.clearDirty, rfl, rfl, frame_setDirty s false⟩

theorem frame_setKeys (s : State) (keys : BitVec 16) : Frame [.keys] s (s.setKeys keys) := by
  simp [Frame]

theorem transact_setKey (s : State) {k b : Nat} (hk : k < 16) (hb : b < 2) :
    transact (.setKey k b) s = (s.setKeys (putKey s.keys k (b == 1)), .ok) := by
  rw [transact, State.setKey, if_pos ⟨hk, hb⟩, replyOr]

theorem transact_setKey_refused (s : State) {k b : Nat} (h : ¬ (k < 16 ∧ b < 2)) :
    transact (.setKey k b) s = (s, .refused) := by
  rw [transact, State.setKey, if_neg h, replyOr]

/-- Settles O34. -/
theorem setKeyWritesOneLatch : Obligations.SetKeyWritesOneLatch := by
  refine fun s k b => ⟨fun hk hb => ?_, fun h => transact_setKey_refused s (by omega)⟩
  have hk : k < 16 := Nat.lt_succ_of_le hk
  have hkey := fun j => key_setKeys_putKey s k j (b == 1) hk
  exact ⟨_, transact_setKey s hk (Nat.lt_succ_of_le hb), (hkey k).trans (if_pos rfl),
    fun j hj => (hkey j).trans (if_neg hj), frame_setKeys s _⟩

end Sys2Proof.Machine
end

section
/-! SUPPORT. Settles the load of a program and the boot: what `LoadProgram` leaves, and what the first step after
`Reset` fetches (70_reset_and_hazards.md R200 to R203). -/

namespace Sys2Proof.Machine

/-! ### `LoadProgram` -/

section
variable (s : State) {bytes : List Byte}

theorem transact_loadProgram (h : bytes.length ≤ 3584) :
    transact (.loadProgram bytes) s = (s.setMem (s.mem.writeBytes 0x200 bytes), .ok) := by
  rw [transact, State.loadProgram, if_neg (Nat.not_lt.mpr h), replyOr]

theorem transact_loadProgram_tooLarge (h : bytes.length > 3584) :
    transact (.loadProgram bytes) s = (s, .programTooLarge) := by
  rw [transact, State.loadProgram, if_pos h, replyOr]

end

/-- Settles O29. -/
theorem programLoadIsAllOrNothing : Obligations.ProgramLoadIsAllOrNothing := fun s bytes =>
  ⟨fun h => ⟨_, transact_loadProgram s h, fun _ hk => read_writeBytes_add s.mem 0x200 hk,
    bytesKept_writeBytes s 0x200 bytes, frame_setMem s _⟩, fun h => transact_loadProgram_tooLarge s h⟩

/-! ### Boot -/

section
variable (s : State)

@[simp] theorem resetFrom_pc : s.resetFrom.pc = 0x200 := rfl

theorem resetFrom_mem_read_of_ge {a : Nat} (h : 80 ≤ a) : s.resetFrom.mem.read a = 0 := by
  rw [resetFrom_mem_read, if_neg (Nat.not_lt.mpr h), resetByte_of_ge h]

/-- With nothing loaded, the two bytes at 0x200 are the word 0, which no row of the map takes (R201, R77). -/
theorem step_resetFrom : step s.resetFrom = .fault (.unknownOpcode 0) := by
  refine (fetchFaultsBeforeDecode s.resetFrom).2 0 ?_ ?_ (by decide)
  · rw [resetFrom_pc]
    decide
  · rw [resetFrom_pc, resetFrom_mem_read_of_ge s (by decide), resetFrom_mem_read_of_ge s (by decide)]
    rfl

/-- The first two bytes of a loaded program are those the step at 0x200 runs, whatever memory held (R203). -/
theorem step_setMem_program {hi lo : Byte} {more : List Byte} {i : Instr} (hpc : s.pc = 0x200)
    (hdec : decodeWord (BitVec.ofNat 16 (hi.toNat * 256 + lo.toNat)) = some i) :
    step (s.setMem (s.mem.writeBytes 0x200 (hi :: lo :: more))) =
      exec i (s.setMem (s.mem.writeBytes 0x200 (hi :: lo :: more))) := by
  have hpcNat : s.pc.toNat = 0x200 := by rw [hpc]; rfl
  have hhi : (s.mem.writeBytes 0x200 (hi :: lo :: more)).read 0x200 = hi :=
    read_writeBytes_add s.mem 0x200 (k := 0) (by simp)
  have hlo : (s.mem.writeBytes 0x200 (hi :: lo :: more)).read (0x200 + 1) = lo :=
    read_writeBytes_add s.mem 0x200 (k := 1) (by simp)
  apply stepRunsTheDecodedInstruction
  · rw [setMem_pc, hpcNat]
    decide
  · rwa [setMem_pc, setMem_mem, hpcNat, hhi, hlo]

end

/-- Settles O31: `Reset` leaves `PC` where `LoadProgram` puts the first byte. -/
theorem bootRunsTheProgram : Obligations.BootRunsTheProgram := by
  refine ⟨fun s => congrArg Prod.snd (stepReport_of_fault (step_resetFrom s)), fun s hi lo more i hlen hdec => ?_⟩
  have hload : s.after [.reset, .loadProgram (hi :: lo :: more)] =
      s.resetFrom.setMem (s.resetFrom.mem.writeBytes 0x200 (hi :: lo :: more)) :=
    congrArg Prod.fst (transact_loadProgram s.resetFrom (bytes := hi :: lo :: more) hlen)
  rw [hload]
  exact ⟨rfl, step_setMem_program s.resetFrom (resetFrom_pc s) hdec⟩

end Sys2Proof.Machine
end
